-- ==== Sys2Proof/Word.lean ====
section
/-! DEFINITION. The machine word of the core and the byte of a host's byte view. -/

namespace Sys2Proof

/-- A command word and every register of the window are 32 bits (00_scope.md R8, R12). -/
abbrev Word := BitVec 32

/-- One byte of a word laid out in byte-addressed host memory (20_memory.md R46). -/
abbrev Byte := BitVec 8

end Sys2Proof
end

