-- ==== Sys2Proof/Syntax.lean ====
section
/-! DEFINITION. The command set: one constructor per row of spec/opcode_table.json (30_encoding.md R62, R67). -/

namespace Sys2Proof

/-- A decoded command. Operands are the fields of 30_encoding.md R61; a bit count is a number (R64), bounded by
`Instr.wellFormed`. -/
inductive Instr where
  /-- 42_control.md R120. -/
  | nop
  /-- 40_lfsr_engine.md R85 on U0. -/
  | config0 (taps : BitVec 16) (width otap : BitVec 5)
  /-- 40_lfsr_engine.md R85 on U1. -/
  | config1 (taps : BitVec 16) (width otap : BitVec 5)
  /-- 40_lfsr_engine.md R85 on U2. -/
  | config2 (taps : BitVec 16) (width otap : BitVec 5)
  /-- 40_lfsr_engine.md R87 on U0. -/
  | seed0 (v : BitVec 16)
  /-- 40_lfsr_engine.md R87 on U1. -/
  | seed1 (v : BitVec 16)
  /-- 40_lfsr_engine.md R87 on U2. -/
  | seed2 (v : BitVec 16)
  /-- 40_lfsr_engine.md R89 on U0. -/
  | step0 (n : Nat)
  /-- 40_lfsr_engine.md R89 on U1. -/
  | step1 (n : Nat)
  /-- 40_lfsr_engine.md R89 on U2. -/
  | step2 (n : Nat)
  /-- 41_gold_generator.md R104, R105. -/
  | prn (id : BitVec 8)
  /-- 41_gold_generator.md R107. -/
  | gold (n : Nat)
  /-- 42_control.md R121. -/
  | clear (mask : BitVec 3)
  deriving DecidableEq, Repr

end Sys2Proof
end

