-- ==== Sys2Proof/WellFormed.lean ====
section
/-! DEFINITION. Which commands a word can carry. -/

namespace Sys2Proof

/-- A bit count fits IMM16: 0..65535 (30_encoding.md R64). -/
def countFits (n : Nat) : Bool := n < 65536

/-- A command that a 32-bit word encodes. The bit-vector operands fit their fields by their types; whether a
configuration is legal is CONFIG's own check and not the encoding's (30_encoding.md R63). -/
def Instr.wellFormed : Instr → Bool
  | .nop => true
  | .config0 _ _ _ => true
  | .config1 _ _ _ => true
  | .config2 _ _ _ => true
  | .seed0 _ => true
  | .seed1 _ => true
  | .seed2 _ => true
  | .step0 n => countFits n
  | .step1 n => countFits n
  | .step2 n => countFits n
  | .prn _ => true
  | .gold n => countFits n
  | .clear _ => true

end Sys2Proof
end

