-- ==== Sys2Proof/Decode.lean ====
section
/-! DEFINITION. The decoder, total on every word and on every list of bytes, the opcode table's match and mask pairs,
and the encoder (30_encoding.md). -/

namespace Sys2Proof

/-- Why a word is no command (30_encoding.md R66), in the order of the checks of 60_exceptions.md R134. -/
inductive Illegal where
  /-- OP is in 0x7..0xF. -/
  | reservedOpcode
  /-- A reserved bit of the word's format is 1. -/
  | reservedBits
  /-- Format C or U with UNIT = 3. -/
  | unitThree
  /-- A byte view ended before the fourth byte; no word of the core is cut short (30_encoding.md R61). -/
  | truncated
  deriving DecidableEq, Repr

/-! ## The fields of a word (30_encoding.md R61) -/

/-- OP = w[31:28]. -/
def fieldOp (w : Word) : BitVec 4 := w.extractLsb' 28 4
/-- UNIT = w[27:26]. -/
def fieldUnit (w : Word) : BitVec 2 := w.extractLsb' 26 2
/-- TAPS = w[25:10]. -/
def fieldTaps (w : Word) : BitVec 16 := w.extractLsb' 10 16
/-- WIDTH = w[9:5]. -/
def fieldWidth (w : Word) : BitVec 5 := w.extractLsb' 5 5
/-- OTAP = w[4:0]. -/
def fieldOtap (w : Word) : BitVec 5 := w.extractLsb' 0 5
/-- IMM16 = w[15:0]. -/
def fieldImm (w : Word) : BitVec 16 := w.extractLsb' 0 16
/-- ID = w[7:0]. -/
def fieldId (w : Word) : BitVec 8 := w.extractLsb' 0 8
/-- MASK = w[2:0]. -/
def fieldMask (w : Word) : BitVec 3 := w.extractLsb' 0 3

/-- Format N: w[27:0] is reserved. -/
def decodeN (w : Word) : Except Illegal Instr :=
  if w.extractLsb' 0 28 ≠ 0 then .error .reservedBits else .ok .nop

/-- Format C: no reserved bit; UNIT = 3 is no unit. -/
def decodeC (w : Word) : Except Illegal Instr :=
  match (fieldUnit w).toNat with
  | 0 => .ok (.config0 (fieldTaps w) (fieldWidth w) (fieldOtap w))
  | 1 => .ok (.config1 (fieldTaps w) (fieldWidth w) (fieldOtap w))
  | 2 => .ok (.config2 (fieldTaps w) (fieldWidth w) (fieldOtap w))
  | _ => .error .unitThree

/-- Format U with OP = 0x2. -/
def decodeSeed (w : Word) : Except Illegal Instr :=
  if w.extractLsb' 16 10 ≠ 0 then .error .reservedBits
  else match (fieldUnit w).toNat with
    | 0 => .ok (.seed0 (fieldImm w))
    | 1 => .ok (.seed1 (fieldImm w))
    | 2 => .ok (.seed2 (fieldImm w))
    | _ => .error .unitThree

/-- Format U with OP = 0x3. -/
def decodeStep (w : Word) : Except Illegal Instr :=
  if w.extractLsb' 16 10 ≠ 0 then .error .reservedBits
  else match (fieldUnit w).toNat with
    | 0 => .ok (.step0 (fieldImm w).toNat)
    | 1 => .ok (.step1 (fieldImm w).toNat)
    | 2 => .ok (.step2 (fieldImm w).toNat)
    | _ => .error .unitThree

/-- Format P: w[27:8] is reserved. -/
def decodeP (w : Word) : Except Illegal Instr :=
  if w.extractLsb' 8 20 ≠ 0 then .error .reservedBits else .ok (.prn (fieldId w))

/-- Format G: w[27:16] is reserved. -/
def decodeG (w : Word) : Except Illegal Instr :=
  if w.extractLsb' 16 12 ≠ 0 then .error .reservedBits else .ok (.gold (fieldImm w).toNat)

/-- Format K: w[27:3] is reserved. -/
def decodeK (w : Word) : Except Illegal Instr :=
  if w.extractLsb' 3 25 ≠ 0 then .error .reservedBits else .ok (.clear (fieldMask w))

/-- The decoder of 30_encoding.md R60: total, and the same in every state of the core (R68). -/
def decode (w : Word) : Except Illegal Instr :=
  match (fieldOp w).toNat with
  | 0 => decodeN w
  | 1 => decodeC w
  | 2 => decodeSeed w
  | 3 => decodeStep w
  | 4 => decodeP w
  | 5 => decodeG w
  | 6 => decodeK w
  | _ => .error .reservedOpcode

/-! ## The byte view of a word (20_memory.md R46) -/

/-- Four bytes as one word, byte k in bits [8k+7:8k]. -/
def wordOfBytes (b0 b1 b2 b3 : Byte) : Word := b3 ++ b2 ++ b1 ++ b0

/-- A word as the bytes a little-endian host stores, lowest address first. -/
def bytesOfWord (w : Word) : List Byte :=
  [w.extractLsb' 0 8, w.extractLsb' 8 8, w.extractLsb' 16 8, w.extractLsb' 24 8]

/-- The command at the head of a host's byte list, with the bytes behind it. -/
def decodeBytes : List Byte → Except Illegal (Instr × List Byte)
  | b0 :: b1 :: b2 :: b3 :: rest => (decode (wordOfBytes b0 b1 b2 b3)).map (fun i => (i, rest))
  | _ => .error .truncated

/-- What the decoder reads from an opcode-table word of `nbits` bits. Every command has 32 bits (30_encoding.md R61),
so bits above `nbits` are 0 and a longer row is none of the core's. -/
def decodeTableWord (nbits w : Nat) : Option Instr :=
  if nbits ≤ 32 then
    match decodeBytes (bytesOfWord (BitVec.ofNat 32 (w % 2 ^ nbits))) with
    | .ok (i, []) => some i
    | _ => none
  else none

/-! ## The opcode table (30_encoding.md R67) -/

/-- One row: a word selects it when `w AND mask = match`. -/
structure OpcodeRow where
  mnemonic : String
  pattern : Word
  mask : Word
  deriving DecidableEq, Repr

/-- The 13 rows of spec/opcode_table.json. -/
def opcodeTable : List OpcodeRow :=
  [ ⟨"NOP", 0x00000000, 0xFFFFFFFF⟩,
    ⟨"CONFIG_0", 0x10000000, 0xFC000000⟩, ⟨"CONFIG_1", 0x14000000, 0xFC000000⟩, ⟨"CONFIG_2", 0x18000000, 0xFC000000⟩,
    ⟨"SEED_0", 0x20000000, 0xFFFF0000⟩, ⟨"SEED_1", 0x24000000, 0xFFFF0000⟩, ⟨"SEED_2", 0x28000000, 0xFFFF0000⟩,
    ⟨"STEP_0", 0x30000000, 0xFFFF0000⟩, ⟨"STEP_1", 0x34000000, 0xFFFF0000⟩, ⟨"STEP_2", 0x38000000, 0xFFFF0000⟩,
    ⟨"PRN", 0x40000000, 0xFFFFFF00⟩, ⟨"GOLD", 0x50000000, 0xFFFF0000⟩, ⟨"CLEAR", 0x60000000, 0xFFFFFFF8⟩ ]

/-- The word selects the row. -/
def OpcodeRow.selects (r : OpcodeRow) (w : Word) : Bool := w &&& r.mask == r.pattern

/-- The mnemonic of a command's row. -/
def Instr.mnemonic : Instr → String
  | .nop => "NOP"
  | .config0 _ _ _ => "CONFIG_0"
  | .config1 _ _ _ => "CONFIG_1"
  | .config2 _ _ _ => "CONFIG_2"
  | .seed0 _ => "SEED_0"
  | .seed1 _ => "SEED_1"
  | .seed2 _ => "SEED_2"
  | .step0 _ => "STEP_0"
  | .step1 _ => "STEP_1"
  | .step2 _ => "STEP_2"
  | .prn _ => "PRN"
  | .gold _ => "GOLD"
  | .clear _ => "CLEAR"

/-! ## The encoder (30_encoding.md R61) -/

/-- Format C. -/
def encodeC (unit : BitVec 2) (taps : BitVec 16) (width otap : BitVec 5) : Word := 1#4 ++ unit ++ taps ++ width ++ otap

/-- Format U. -/
def encodeU (op : BitVec 4) (unit : BitVec 2) (imm : BitVec 16) : Word := op ++ unit ++ 0#10 ++ imm

/-- Format P. -/
def encodeP (id : BitVec 8) : Word := 4#4 ++ 0#20 ++ id

/-- Format G. -/
def encodeG (imm : BitVec 16) : Word := 5#4 ++ 0#12 ++ imm

/-- Format K. -/
def encodeK (mask : BitVec 3) : Word := 6#4 ++ 0#25 ++ mask

/-- The word of a well-formed command; a count beyond 65535 loses its high bits, and `Instr.wellFormed` excludes it. -/
def encode : Instr → Word
  | .nop => 0#32
  | .config0 t w o => encodeC 0 t w o
  | .config1 t w o => encodeC 1 t w o
  | .config2 t w o => encodeC 2 t w o
  | .seed0 v => encodeU 2 0 v
  | .seed1 v => encodeU 2 1 v
  | .seed2 v => encodeU 2 2 v
  | .step0 n => encodeU 3 0 (BitVec.ofNat 16 n)
  | .step1 n => encodeU 3 1 (BitVec.ofNat 16 n)
  | .step2 n => encodeU 3 2 (BitVec.ofNat 16 n)
  | .prn id => encodeP id
  | .gold n => encodeG (BitVec.ofNat 16 n)
  | .clear m => encodeK m

end Sys2Proof
end

