-- ==== Sys2Proof/Config.lean ====
section
/-! DEFINITION. What one realisation of the core fixes (00_scope.md R7): the parameters the spec makes arguments of
the model, the constants it fixes, and the open values that nothing in Lean can evaluate. -/

namespace Sys2Proof

/-- The three LFSR units, NUNIT = 3 (00_scope.md R7, 10_state.md R20). -/
inductive UnitId where
  | u0
  | u1
  | u2
  deriving DecidableEq, Repr

/-- One entry of the tap-assignment table: the output taps of U1 and of U2, 4 bits each (10_state.md R29, R31). -/
structure TapPair where
  s1 : BitVec 4
  s2 : BitVec 4
  deriving DecidableEq, Repr

/-- The parameters the model takes as arguments (00_scope.md R7). State carries them as constants that no step writes
(DESIGN CHOICE, log 1): a statement about every state then holds for every legal instance of the core. -/
structure Params where
  /-- `WMAX`, the largest LFSR width a unit accepts. -/
  wmax : BitVec 5
  /-- `TAP_ASSIGN`; the entry of identifier `id` stands at index `id - 1`. -/
  tapAssign : Vector TapPair 37
  deriving DecidableEq, Repr

namespace Config

/-- `NPRN`, the highest valid satellite identifier (00_scope.md R7). -/
def nprn : Nat := 37

/-- `CODE_LEN`, chips per Gold-code period (00_scope.md R7). -/
def codeLen : Nat := 1023

/-- The interface version that INFO reports (10_state.md R30). -/
def interfaceVersion : Nat := 1

/-- Open: which 64-byte block of the host's address space holds the register window (20_memory.md R49). -/
opaque baseBlock : Nat

/-- `BASE`, 64-byte aligned by its form (00_scope.md R7; log 8). -/
def base : Nat := 64 * baseBlock

/-- Open: the free draw of 70_reset_and_hazards.md R153, a fresh one for each value of the draw counter (log 5). -/
opaque resetPrefix : Nat → Nat

/-- Open: `CMD_OVERHEAD`, in cycles (70_reset_and_hazards.md R160). No rule of the machine depends on it (log 9). -/
opaque cmdOverhead : Nat

end Config

end Sys2Proof
end

