-- ==== Sys2Proof/Machine/TapRom.lean ====
section
/-! DEFINITION. The tap-assignment ROM (10_state.md R29, 41_gold_generator.md R101), its lookup, and the reference
instance of the parameters (00_scope.md R7). -/

namespace Sys2Proof.Machine

/-- The reference value of TAP_ASSIGN, identifiers 1..37 (41_gold_generator.md R101). The spec gives entries 2..37 from
general knowledge (PRESUMED, log 2). -/
def referenceTapAssign : Vector TapPair 37 :=
  #v[⟨2, 6⟩, ⟨3, 7⟩, ⟨4, 8⟩, ⟨5, 9⟩, ⟨1, 9⟩, ⟨2, 10⟩, ⟨1, 8⟩, ⟨2, 9⟩, ⟨3, 10⟩, ⟨2, 3⟩,
     ⟨3, 4⟩, ⟨5, 6⟩, ⟨6, 7⟩, ⟨7, 8⟩, ⟨8, 9⟩, ⟨9, 10⟩, ⟨1, 4⟩, ⟨2, 5⟩, ⟨3, 6⟩, ⟨4, 7⟩,
     ⟨5, 8⟩, ⟨6, 9⟩, ⟨1, 3⟩, ⟨4, 6⟩, ⟨5, 7⟩, ⟨6, 8⟩, ⟨7, 9⟩, ⟨8, 10⟩, ⟨1, 6⟩, ⟨2, 7⟩,
     ⟨3, 8⟩, ⟨4, 9⟩, ⟨5, 10⟩, ⟨4, 10⟩, ⟨1, 7⟩, ⟨2, 8⟩, ⟨4, 10⟩]

/-- The reference instance: WMAX = 10 and the table above (00_scope.md R7; log 1). -/
def referenceParams : Params := { wmax := 10, tapAssign := referenceTapAssign }

/-- The ROM entry of an identifier; none outside 1..37 (41_gold_generator.md R101, R102). -/
def tapRom (p : Params) (id : Nat) : Option TapPair :=
  if h : 1 ≤ id ∧ id ≤ 37 then some (p.tapAssign[id - 1]'(by omega)) else none

end Sys2Proof.Machine
end

