-- ==== Sys2Proof/Machine/State.lean ====
section
/-! DEFINITION. The state of the core as plain data (10_state.md R31), the events its bus serves, and the reset state. -/

namespace Sys2Proof.Machine

/-- One LFSR unit (10_state.md R20). -/
structure LfsrUnit where
  /-- VALID: the unit is configured. -/
  valid : Bool
  /-- WIDTH, the register width W. -/
  width : BitVec 5
  /-- TAPS: bit p-1 is 1 when tap position p is in the feedback set. -/
  taps : BitVec 16
  /-- OTAP, the output tap position. -/
  otap : BitVec 5
  /-- VALUE, the register's content. -/
  value : BitVec 16
  deriving DecidableEq, Repr

/-- A unit that is not configured holds 0 in every field (10_state.md R22, R31). -/
def LfsrUnit.unconfigured : LfsrUnit := { valid := false, width := 0, taps := 0, otap := 0, value := 0 }

/-- Where a stream entry comes from: a unit (STEP) or the combiner (GOLD) (10_state.md R28). -/
inductive StreamSource where
  | unit (u : UnitId)
  | gold
  deriving DecidableEq, Repr

/-- One entry (src, b) of the chip output stream (10_state.md R28). -/
structure StreamEntry where
  src : StreamSource
  bit : Bool
  deriving DecidableEq, Repr

/-- The access sizes the bus carries, n in 1, 2, 4 (20_memory.md R41). -/
inductive AccessSize where
  | byte
  | half
  | word
  deriving DecidableEq, Repr

/-- A host transaction at a byte offset 0..63 of the register window (20_memory.md R40, R41). -/
inductive Transaction where
  /-- `BusWrite(off, n, v)`; for n < 4 the value is the low n bytes of `v`, which no rule reads (log 11). -/
  | write (off : BitVec 6) (size : AccessSize) (v : Word)
  /-- `BusRead(off, n)`. -/
  | read (off : BitVec 6) (size : AccessSize)
  deriving DecidableEq, Repr

/-- What arrives at the core, one event a step (00_scope.md R14). -/
inductive BusEvent where
  /-- A transaction that is served to its end. -/
  | transaction (t : Transaction)
  /-- RESET between transactions (70_reset_and_hazards.md R150). -/
  | reset
  /-- RESET while the command word `w` executes; `waiting` are the transactions waiting behind it, which are never
  served (70_reset_and_hazards.md R153). -/
  | resetDuring (w : Word) (waiting : List Transaction)
  deriving DecidableEq, Repr

/-- The whole state: the table of 10_state.md R31, and behind it the history and the environment's schedule. -/
structure State where
  /-- U0, the reference register (10_state.md R23). -/
  u0 : LfsrUnit
  /-- U1, the first variable register. -/
  u1 : LfsrUnit
  /-- U2, the second variable register. -/
  u2 : LfsrUnit
  /-- SHIFT, the output capture register (10_state.md R24). -/
  shift : BitVec 32
  /-- CHIPCNT, Gold chips modulo 1023 (10_state.md R25). -/
  chipcnt : BitVec 10
  /-- PRNSEL, the identifier of the last successful PRN (10_state.md R26). -/
  prnsel : BitVec 8
  /-- ERRCODE, the first error since the last clear (10_state.md R27). -/
  errcode : BitVec 4
  /-- The constants TAP_ROM and WMAX (10_state.md R29, R30; log 1). -/
  params : Params
  /-- STREAM, oldest entry first: history that reset leaves (10_state.md R28; log 3). -/
  stream : List StreamEntry
  /-- The values bus reads have returned, oldest first (00_scope.md R14; log 3). -/
  reads : List Word
  /-- The events not yet served, next first (20_memory.md R50, R52; log 4). -/
  bus : List BusEvent
  /-- The model's own counter of free draws taken (70_reset_and_hazards.md R153; log 5). -/
  draws : Nat
  deriving DecidableEq, Repr

/-- Reasons to stop with a fault: none. An error of the core is a record in ERRCODE and the core keeps serving
transactions (60_exceptions.md R133, R161), so no rule stops the machine and nobody raises a fault (log 10). -/
inductive Fault where
  deriving DecidableEq, Repr

/-- Reasons to refuse. -/
inductive Refusal where
  /-- The arm of exec for an instruction without a meaning; no arm of this model raises it. Safe. -/
  | notModelled (mnemonic : String)
  deriving DecidableEq, Repr

/-- The outcome of a step or a command. -/
abbrev Result := Host.Outcome State Fault Refusal

/-- The core right after power-on reset: every value of 10_state.md R31, the reference instance of the parameters
(log 1), and nothing emitted, read, scheduled or drawn yet (DESIGN CHOICE, log 3, log 4, log 5). -/
def State.reset : State where
  u0 := LfsrUnit.unconfigured
  u1 := LfsrUnit.unconfigured
  u2 := LfsrUnit.unconfigured
  shift := 0
  chipcnt := 0
  prnsel := 0
  errcode := 0
  params := referenceParams
  stream := []
  reads := []
  bus := []
  draws := 0

end Sys2Proof.Machine
end

