-- ==== Sys2Proof/Machine/Flags.lean ====
section
/-! DEFINITION. The error codes and the STATUS word, the core's only flag-like state (10_state.md R27, R33;
60_exceptions.md R130). -/

namespace Sys2Proof.Machine

/-- The errors a command or an access can raise (60_exceptions.md R130). -/
inductive ErrCode where
  /-- The decoder: a word that is no command. -/
  | illegal
  /-- CONFIG: `legalcfg` is false. -/
  | param
  /-- SEED, STEP, GOLD: a unit that is not configured. -/
  | unconf
  /-- PRN: an identifier outside 1..37. -/
  | prn
  /-- The bus interface: a refused access. -/
  | bus
  deriving DecidableEq, Repr

/-- The 4-bit code ERRCODE holds; 0 is NONE (60_exceptions.md R130). -/
def ErrCode.code : ErrCode → BitVec 4
  | .illegal => 1
  | .param => 2
  | .unconf => 3
  | .prn => 4
  | .bus => 5

/-- `record(e)` on the field: the first error since the last clear is kept (60_exceptions.md R131). -/
def recorded (errcode : BitVec 4) (e : ErrCode) : BitVec 4 := if errcode = 0 then e.code else errcode

/-- STATUS: [3:0] ERRCODE, [4] U0 VALID, [5] U1 VALID, [6] U2 VALID, the rest 0 (10_state.md R33). -/
def statusWord (s : State) : Word :=
  0#25 ++ BitVec.ofBool s.u2.valid ++ BitVec.ofBool s.u1.valid ++ BitVec.ofBool s.u0.valid ++ s.errcode

end Sys2Proof.Machine
end

