-- ==== Sys2Proof/Machine/Operands.lean ====
section
/-! DEFINITION. Operand forms: tap positions, width masks, the legality of a configuration, and the engine's bit
functions on one unit (00_scope.md R10; 40_lfsr_engine.md R80 to R83, R86). -/

namespace Sys2Proof.Machine

/-- `tapbit(v, W, p)`: position p of a W-bit register is value bit W-p (00_scope.md R10). The rule defines it for
1 <= p <= W only; outside that range the model's value is a DESIGN CHOICE that no invariant state reaches (log 13). -/
def tapBit (v : BitVec 16) (w p : Nat) : Bool := (v >>> (w - p)).getLsbD 0

/-- `mask(W) = 2^W - 1` as a 16-bit value (00_scope.md R9). -/
def widthMask (w : Nat) : BitVec 16 := BitVec.ofNat 16 (2 ^ w - 1)

/-- `tapmask(S)`: the OR of `1 << (p-1)` over the positions of a set (30_encoding.md R63). -/
def tapMask (positions : List Nat) : BitVec 16 :=
  positions.foldr (fun p m => (1#16 <<< (p - 1)) ||| m) 0

/-- `legalcfg(W, T, o)` (40_lfsr_engine.md R86). -/
def legalCfg (wmax : BitVec 5) (width : BitVec 5) (taps : BitVec 16) (otap : BitVec 5) : Bool :=
  (1 ≤ width.toNat && width.toNat ≤ wmax.toNat) && taps != 0 && taps >>> width.toNat == 0
    && (1 ≤ otap.toNat && otap.toNat ≤ width.toNat)

/-- `out(u)`, sampled before the shift (40_lfsr_engine.md R80). -/
def LfsrUnit.out (u : LfsrUnit) : Bool := tapBit u.value u.width.toNat u.otap.toNat

/-- `fb(u)`: the XOR of the bits at every feedback tap position 1..W (40_lfsr_engine.md R81). -/
def LfsrUnit.feedback (u : LfsrUnit) : Bool :=
  ((List.range' 1 u.width.toNat).map fun p => u.taps.getLsbD (p - 1) && tapBit u.value u.width.toNat p).foldr xor false

/-- `next(u)`: the feedback bit enters at the most-significant position after a right shift (40_lfsr_engine.md R82). -/
def LfsrUnit.nextValue (u : LfsrUnit) : BitVec 16 :=
  ((BitVec.ofBool u.feedback).setWidth 16 <<< (u.width.toNat - 1)) ||| (u.value >>> 1)

/-- The unit after one engine step: only VALUE changes (40_lfsr_engine.md R83). -/
def LfsrUnit.stepped (u : LfsrUnit) : LfsrUnit := { u with value := u.nextValue }

/-- A unit configured by a legal CONFIG: VALUE is re-truncated to the new width (40_lfsr_engine.md R85). -/
def LfsrUnit.configured (u : LfsrUnit) (taps : BitVec 16) (width otap : BitVec 5) : LfsrUnit :=
  { valid := true, width := width, taps := taps, otap := otap, value := u.value &&& widthMask width.toNat }

/-- A unit with its VALUE loaded, truncated to its width (40_lfsr_engine.md R87). -/
def LfsrUnit.seeded (u : LfsrUnit) (v : BitVec 16) : LfsrUnit := { u with value := v &&& widthMask u.width.toNat }

/-- The reference register as PRN loads it (41_gold_generator.md R100, R104). -/
def LfsrUnit.goldReference : LfsrUnit := { valid := true, width := 10, taps := 0x204, otap := 10, value := 0x3FF }

/-- A variable register as PRN loads it, with its output tap (41_gold_generator.md R100, R104). -/
def LfsrUnit.goldVariable (s : BitVec 4) : LfsrUnit :=
  { valid := true, width := 10, taps := 0x3A6, otap := s.setWidth 5, value := 0x3FF }

end Sys2Proof.Machine
end

