-- ==== Sys2Proof/Machine/Ops.lean ====
section
/-! DEFINITION. The shared operations on State: unit access, emitting a bit, recording an error (the core's whole
exception mechanism: it takes no trap, 60_exceptions.md R137), and reset. -/

namespace Sys2Proof.Machine

/-- `U[u]` read. -/
def State.unit (s : State) : UnitId → LfsrUnit
  | .u0 => s.u0
  | .u1 => s.u1
  | .u2 => s.u2

/-- `U[u]` written. -/
def State.setUnit (s : State) (u : UnitId) (x : LfsrUnit) : State :=
  match u with
  | .u0 => { s with u0 := x }
  | .u1 => { s with u1 := x }
  | .u2 => { s with u2 := x }

/-- `capture(b)` on the register: the bit enters SHIFT at the least-significant end, modulo 2^32 (10_state.md R24). -/
def captured (shift : BitVec 32) (b : Bool) : BitVec 32 := (shift <<< 1) ||| (BitVec.ofBool b).setWidth 32

/-- `emit(src, b)`: one stream entry, and the bit is captured (10_state.md R28). -/
def State.emit (s : State) (src : StreamSource) (b : Bool) : State :=
  { s with stream := s.stream ++ [⟨src, b⟩], shift := captured s.shift b }

/-- `CHIPCNT <- (CHIPCNT + 1) mod 1023` (10_state.md R25). -/
def State.countChip (s : State) : State :=
  { s with chipcnt := BitVec.ofNat 10 ((s.chipcnt.toNat + 1) % Config.codeLen) }

/-- `record(e)` (60_exceptions.md R131). -/
def State.record (s : State) (e : ErrCode) : State := { s with errcode := recorded s.errcode e }

/-- `raise Err(e)`: the error is recorded and the command ends with no other effect (60_exceptions.md R131). -/
def raise (e : ErrCode) (s : State) : State := s.record e

/-- `require(u)`: run the command's effect if unit u is configured, else raise UNCONF before any effect
(40_lfsr_engine.md R88). -/
def requireUnit (u : UnitId) (effect s : State) : State := if (s.unit u).valid then effect else raise .unconf s

/-- A bus read returns a value to the host (20_memory.md R45). -/
def State.reply (s : State) (v : Word) : State := { s with reads := s.reads ++ [v] }

/-- RESET: every field of 10_state.md R31 takes its reset value; the parameters are constants, and the history, the
schedule and the draw counter are no state of the core (70_reset_and_hazards.md R150; log 3, log 4, log 5). -/
def State.applyReset (s : State) : State :=
  { State.reset with params := s.params, stream := s.stream, reads := s.reads, bus := s.bus, draws := s.draws }

/-- The 2-bit source tag of CHIP_OUT: 0..2 a unit, 3 GOLD (10_state.md R28). -/
def StreamSource.tag : StreamSource → BitVec 2
  | .unit .u0 => 0
  | .unit .u1 => 1
  | .unit .u2 => 2
  | .gold => 3

/-- What the output port CHIP_OUT carries in one cycle (10_state.md R28). -/
structure ChipOut where
  valid : Bool
  data : Bool
  tag : BitVec 2
  deriving DecidableEq, Repr

/-- A stream entry on the port: one entry per valid cycle (10_state.md R28). -/
def StreamEntry.chipOut (e : StreamEntry) : ChipOut := { valid := true, data := e.bit, tag := e.src.tag }

end Sys2Proof.Machine
end

