-- ==== Sys2Proof/Machine/Control.lean ====
section
/-! DEFINITION. The control commands NOP and CLEAR (42_control.md). -/

namespace Sys2Proof.Machine

/-- NOP (42_control.md R120). -/
def execNop (s : State) : Result := .next s

/-- CLEAR's effect: the selected registers only, mask bit 0 SHIFT, bit 1 ERRCODE, bit 2 CHIPCNT (42_control.md R121). -/
def clearRegs (m : BitVec 3) (s : State) : State :=
  { s with
    shift := if m.getLsbD 0 then 0 else s.shift
    errcode := if m.getLsbD 1 then 0 else s.errcode
    chipcnt := if m.getLsbD 2 then 0 else s.chipcnt }

/-- CLEAR (42_control.md R121). -/
def execClear (m : BitVec 3) (s : State) : Result := .next (clearRegs m s)

end Sys2Proof.Machine
end

