-- ==== Sys2Proof/Machine/Engine.lean ====
section
/-! DEFINITION. The LFSR engine's commands CONFIG, SEED and STEP (40_lfsr_engine.md): one shared operation each, and
one meaning per unit's row of the opcode table. -/

namespace Sys2Proof.Machine

/-- CONFIG on unit u (40_lfsr_engine.md R85). -/
def configUnit (u : UnitId) (taps : BitVec 16) (width otap : BitVec 5) (s : State) : State :=
  if legalCfg s.params.wmax width taps otap then s.setUnit u ((s.unit u).configured taps width otap)
  else raise .param s

/-- SEED on unit u (40_lfsr_engine.md R87). -/
def seedUnit (u : UnitId) (v : BitVec 16) (s : State) : State :=
  requireUnit u (s.setUnit u ((s.unit u).seeded v)) s

/-- `stepunit(u)`'s write (40_lfsr_engine.md R83). -/
def stepUnit (u : UnitId) (s : State) : State := s.setUnit u (s.unit u).stepped

/-- One turn of STEP's loop: sample, step, emit (40_lfsr_engine.md R89). -/
def stepEmit (u : UnitId) (s : State) : State := (stepUnit u s).emit (.unit u) (s.unit u).out

/-- n turns of STEP's loop. -/
def stepRun (u : UnitId) : Nat → State → State
  | 0, s => s
  | n + 1, s => stepRun u n (stepEmit u s)

/-- STEP on unit u; the check comes first, for a count of 0 too (40_lfsr_engine.md R88, R89). -/
def stepCommand (u : UnitId) (n : Nat) (s : State) : State := requireUnit u (stepRun u n s) s

/-- CONFIG 0 (40_lfsr_engine.md R85). -/
def execConfig0 (taps : BitVec 16) (width otap : BitVec 5) (s : State) : Result := .next (configUnit .u0 taps width otap s)
/-- CONFIG 1 (40_lfsr_engine.md R85). -/
def execConfig1 (taps : BitVec 16) (width otap : BitVec 5) (s : State) : Result := .next (configUnit .u1 taps width otap s)
/-- CONFIG 2 (40_lfsr_engine.md R85). -/
def execConfig2 (taps : BitVec 16) (width otap : BitVec 5) (s : State) : Result := .next (configUnit .u2 taps width otap s)

/-- SEED 0 (40_lfsr_engine.md R87). -/
def execSeed0 (v : BitVec 16) (s : State) : Result := .next (seedUnit .u0 v s)
/-- SEED 1 (40_lfsr_engine.md R87). -/
def execSeed1 (v : BitVec 16) (s : State) : Result := .next (seedUnit .u1 v s)
/-- SEED 2 (40_lfsr_engine.md R87). -/
def execSeed2 (v : BitVec 16) (s : State) : Result := .next (seedUnit .u2 v s)

/-- STEP 0 (40_lfsr_engine.md R89). -/
def execStep0 (n : Nat) (s : State) : Result := .next (stepCommand .u0 n s)
/-- STEP 1 (40_lfsr_engine.md R89). -/
def execStep1 (n : Nat) (s : State) : Result := .next (stepCommand .u1 n s)
/-- STEP 2 (40_lfsr_engine.md R89). -/
def execStep2 (n : Nat) (s : State) : Result := .next (stepCommand .u2 n s)

end Sys2Proof.Machine
end

