-- ==== Sys2Proof/Machine/Gold.lean ====
section
/-! DEFINITION. The Gold-code generator's commands PRN and GOLD (41_gold_generator.md). -/

namespace Sys2Proof.Machine

/-- PRN of a valid identifier, with its ROM entry (41_gold_generator.md R104). -/
def prnLoad (id : BitVec 8) (taps : TapPair) (s : State) : State :=
  { s with
    u0 := LfsrUnit.goldReference
    u1 := LfsrUnit.goldVariable taps.s1
    u2 := LfsrUnit.goldVariable taps.s2
    prnsel := id
    shift := 0
    chipcnt := 0 }

/-- `PRN_invalid()`: the record, and no code until a valid PRN or CONFIG (41_gold_generator.md R105). -/
def prnInvalid (s : State) : State :=
  { s.record .prn with
    u0 := LfsrUnit.unconfigured
    u1 := LfsrUnit.unconfigured
    u2 := LfsrUnit.unconfigured
    prnsel := 0 }

/-- PRN's effect (41_gold_generator.md R102, R104, R105). -/
def prnCommand (id : BitVec 8) (s : State) : State :=
  match tapRom s.params id.toNat with
  | some taps => prnLoad id taps s
  | none => prnInvalid s

/-- PRN (41_gold_generator.md R104). -/
def execPrn (id : BitVec 8) (s : State) : Result := .next (prnCommand id s)

/-- `goldchip()`: all three sampled before any steps (41_gold_generator.md R103). -/
def goldChip (s : State) : Bool := xor (xor s.u1.out s.u2.out) s.u0.out

/-- The three units advance by one engine step each (41_gold_generator.md R106). -/
def goldAdvance (s : State) : State := stepUnit .u2 (stepUnit .u1 (stepUnit .u0 s))

/-- One turn of GOLD's loop: Gold step, emit, count (41_gold_generator.md R107). -/
def goldEmit (s : State) : State := ((goldAdvance s).emit .gold (goldChip s)).countChip

/-- n turns of GOLD's loop. -/
def goldRun : Nat → State → State
  | 0, s => s
  | n + 1, s => goldRun n (goldEmit s)

/-- GOLD's effect; the check covers all three units before any step (41_gold_generator.md R107). -/
def goldCommand (n : Nat) (s : State) : State :=
  requireUnit .u0 (requireUnit .u1 (requireUnit .u2 (goldRun n s) s) s) s

/-- GOLD (41_gold_generator.md R107). -/
def execGold (n : Nat) (s : State) : Result := .next (goldCommand n s)

end Sys2Proof.Machine
end

