-- ==== Sys2Proof/Machine/Dispatch.lean ====
section
/-! DEFINITION. exec: one arm per constructor of Instr (30_encoding.md R62). -/

namespace Sys2Proof.Machine

def exec (i : Instr) (s : State) : Host.Outcome State Fault Refusal :=
  match i with
  | .nop => Sys2Proof.Machine.execNop s
  | .config0 taps width otap => Sys2Proof.Machine.execConfig0 taps width otap s
  | .config1 taps width otap => Sys2Proof.Machine.execConfig1 taps width otap s
  | .config2 taps width otap => Sys2Proof.Machine.execConfig2 taps width otap s
  | .seed0 v => Sys2Proof.Machine.execSeed0 v s
  | .seed1 v => Sys2Proof.Machine.execSeed1 v s
  | .seed2 v => Sys2Proof.Machine.execSeed2 v s
  | .step0 n => Sys2Proof.Machine.execStep0 n s
  | .step1 n => Sys2Proof.Machine.execStep1 n s
  | .step2 n => Sys2Proof.Machine.execStep2 n s
  | .prn id => Sys2Proof.Machine.execPrn id s
  | .gold n => Sys2Proof.Machine.execGold n s
  | .clear m => Sys2Proof.Machine.execClear m s

end Sys2Proof.Machine
end

