-- ==== Sys2Proof/Machine/Window.lean ====
section
/-! DEFINITION. The register window: the map, what each register reads as, which accesses are admitted, and how an
access at an absolute host address arrives (20_memory.md R40 to R43, R45). -/

namespace Sys2Proof.Machine

/-- The registers of the map (20_memory.md R43). -/
inductive RegName where
  | cmd
  | status
  | shift
  | chipcnt
  | prnsel
  | info
  | ucfg (u : UnitId)
  | uval (u : UnitId)
  deriving DecidableEq, Repr

/-- The register at a byte offset; none where the map has none (20_memory.md R43). -/
def regAt (off : BitVec 6) : Option RegName :=
  match off.toNat with
  | 0x00 => some .cmd
  | 0x04 => some .status
  | 0x08 => some .shift
  | 0x0C => some .chipcnt
  | 0x10 => some .prnsel
  | 0x14 => some .info
  | 0x20 => some (.ucfg .u0)
  | 0x24 => some (.uval .u0)
  | 0x28 => some (.ucfg .u1)
  | 0x2C => some (.uval .u1)
  | 0x30 => some (.ucfg .u2)
  | 0x34 => some (.uval .u2)
  | _ => none

/-- UCFG of a unit: [31] VALID, [30:26] 0, [25:10] TAPS, [9:5] WIDTH, [4:0] OTAP (20_memory.md R43). -/
def ucfgWord (u : LfsrUnit) : Word := BitVec.ofBool u.valid ++ 0#5 ++ u.taps ++ u.width ++ u.otap

/-- INFO: version, NPRN, WMAX (10_state.md R30). -/
def infoWord (p : Params) : Word :=
  0#11 ++ p.wmax ++ BitVec.ofNat 8 Config.nprn ++ BitVec.ofNat 8 Config.interfaceVersion

/-- `reg(off)`: the value of a register assembled from the state (20_memory.md R43, R45). CMD is write-only and no
admitted read names it; its arm is never used by `serveRead`. -/
def readReg (r : RegName) (s : State) : Word :=
  match r with
  | .cmd => 0
  | .status => statusWord s
  | .shift => s.shift
  | .chipcnt => s.chipcnt.setWidth 32
  | .prnsel => s.prnsel.setWidth 32
  | .info => infoWord s.params
  | .ucfg u => ucfgWord (s.unit u)
  | .uval u => (s.unit u).value.setWidth 32

/-- The size is 4 and the offset is a multiple of 4 (20_memory.md R42, R47). -/
def alignedWord (off : BitVec 6) (size : AccessSize) : Bool := size == .word && off.toNat % 4 == 0

/-- The register an admitted read names; none where the read is refused (20_memory.md R42). -/
def admittedRead (off : BitVec 6) (size : AccessSize) : Option RegName :=
  if alignedWord off size then (regAt off).filter (· != .cmd) else none

/-- A write is admitted only to CMD (20_memory.md R42). -/
def admittedWrite (off : BitVec 6) (size : AccessSize) : Bool := alignedWord off size && regAt off == some .cmd

/-- A bus read: an admitted one returns the register and changes nothing, a refused one records BUS and returns 0
(20_memory.md R45). -/
def serveRead (off : BitVec 6) (size : AccessSize) (s : State) : State :=
  match admittedRead off size with
  | some r => s.reply (readReg r s)
  | none => (raise .bus s).reply 0

/-- The offset of an absolute host address, where it lies in [BASE, BASE+63] (20_memory.md R40). -/
def windowOffset (addr : Nat) : Option (BitVec 6) :=
  if Config.base ≤ addr ∧ addr ≤ Config.base + 63 then some (BitVec.ofNat 6 (addr - Config.base)) else none

/-- The bus delivers an event: it waits behind those that arrived before it (20_memory.md R50, R52). -/
def State.deliver (s : State) (e : BusEvent) : State := { s with bus := s.bus ++ [e] }

/-- A host writes at an absolute address; outside the window nothing reaches the core (20_memory.md R41; log 8). -/
def hostWrite (addr : Nat) (size : AccessSize) (v : Word) (s : State) : State :=
  match windowOffset addr with
  | some off => s.deliver (.transaction (.write off size v))
  | none => s

/-- A host reads at an absolute address; outside the window nothing reaches the core (20_memory.md R41; log 8). -/
def hostRead (addr : Nat) (size : AccessSize) (s : State) : State :=
  match windowOffset addr with
  | some off => s.deliver (.transaction (.read off size))
  | none => s

end Sys2Proof.Machine
end

