-- ==== Sys2Proof/Machine/Bus.lean ====
section
/-! DEFINITION. Executing a command word and serving one bus event (20_memory.md R44, R45; 30_encoding.md R60;
70_reset_and_hazards.md R150, R153). -/

namespace Sys2Proof.Machine

/-- `execute(w)`: decode and run, or ILLEGAL with no other effect (30_encoding.md R60, R66). -/
def execute (w : Word) (s : State) : Result :=
  match decode w with
  | .ok i => exec i s
  | .error _ => .next (raise .illegal s)

/-- A bus write: a word write to CMD executes, every other records BUS (20_memory.md R42, R45). -/
def serveWrite (off : BitVec 6) (size : AccessSize) (v : Word) (s : State) : Result :=
  if admittedWrite off size then execute v s else .next (raise .bus s)

/-- One host transaction (20_memory.md R45). -/
def serve (t : Transaction) (s : State) : Result :=
  match t with
  | .write off size v => serveWrite off size v s
  | .read off size => .next (serveRead off size s)

/-- How many stream entries a command emits when it runs to its end: its count where the units it needs are
configured, else none (40_lfsr_engine.md R89, 41_gold_generator.md R107). -/
def emissionCount (i : Instr) (s : State) : Nat :=
  match i with
  | .nop => 0
  | .config0 _ _ _ => 0
  | .config1 _ _ _ => 0
  | .config2 _ _ _ => 0
  | .seed0 _ => 0
  | .seed1 _ => 0
  | .seed2 _ => 0
  | .step0 n => if s.u0.valid then n else 0
  | .step1 n => if s.u1.valid then n else 0
  | .step2 n => if s.u2.valid then n else 0
  | .prn _ => 0
  | .gold n => if s.u0.valid && s.u1.valid && s.u2.valid then n else 0
  | .clear _ => 0

/-- The first k turns of a command's loop; a command without a loop has none (00_scope.md R12). -/
def runPrefix (i : Instr) (k : Nat) (s : State) : State :=
  match i with
  | .nop => s
  | .config0 _ _ _ => s
  | .config1 _ _ _ => s
  | .config2 _ _ _ => s
  | .seed0 _ => s
  | .seed1 _ => s
  | .seed2 _ => s
  | .step0 _ => stepRun .u0 k s
  | .step1 _ => stepRun .u1 k s
  | .step2 _ => stepRun .u2 k s
  | .prn _ => s
  | .gold _ => goldRun k s
  | .clear _ => s

/-- The k of 70_reset_and_hazards.md R153 for a command that would emit n entries: a free value in 0..n (log 5). -/
def drawnPrefix (n : Nat) (s : State) : Nat := Config.resetPrefix s.draws % (n + 1)

/-- RESET while a command executes: its first k entries are on the stream, and the state is the reset state
(70_reset_and_hazards.md R153). A word that is no command emits nothing (log 6). -/
def abandon (w : Word) (s : State) : State :=
  match decode w with
  | .ok i => { (runPrefix i (drawnPrefix (emissionCount i s) s) s).applyReset with draws := s.draws + 1 }
  | .error _ => { s.applyReset with draws := s.draws + 1 }

/-- One bus event. The transactions that waited behind an interrupted command are not served (70_reset_and_hazards.md
R153; log 7). -/
def serveEvent (e : BusEvent) (s : State) : Result :=
  match e with
  | .transaction t => serve t s
  | .reset => .next s.applyReset
  | .resetDuring w _ => .next (abandon w s)

/-- The core serves the next event; with none it is idle and keeps all its state (60_exceptions.md R145). -/
def serveNext (s : State) : Result :=
  match s.bus with
  | [] => .next s
  | e :: rest => serveEvent e { s with bus := rest }

/-- A full-word write to CMD, the one way a command arrives (20_memory.md R44). -/
def cmdWrite (w : Word) : BusEvent := .transaction (.write 0 .word w)

/-- `s` with a host's CMD write of the word as the very next event (log 12). -/
def withNextCommand (w : Word) (s : State) : State := { s with bus := cmdWrite w :: s.bus }

end Sys2Proof.Machine
end

