-- ==== Sys2Proof/Machine/Step.lean ====
section
/-! DEFINITION. One step of the core: one bus event (00_scope.md R14, 20_memory.md R45). -/

namespace Sys2Proof.Machine

/-- One step. -/
def step (s : State) : Host.Outcome State Fault Refusal := serveNext s

/-- `s` with the table's word of `nbits` bits as the next command: the core fetches nothing (10_state.md R21), so the
word arrives as the host's next CMD write (log 12). -/
def State.withFetchWord (s : State) (nbits w : Nat) : State := withNextCommand (BitVec.ofNat 32 (w % 2 ^ nbits)) s

end Sys2Proof.Machine
end

