-- ==== Sys2Proof/Machine/Rows.lean ====
section
/-! DEFINITION. The per-unit rows of the opcode table picked by their unit (30_encoding.md R65, R67). -/

namespace Sys2Proof.Machine

/-- The UNIT field's value (30_encoding.md R65). -/
def unitCode : UnitId → BitVec 2
  | .u0 => 0
  | .u1 => 1
  | .u2 => 2

/-- CONFIG on unit u. -/
def configOn (u : UnitId) (taps : BitVec 16) (width otap : BitVec 5) : Instr :=
  match u with
  | .u0 => .config0 taps width otap
  | .u1 => .config1 taps width otap
  | .u2 => .config2 taps width otap

/-- SEED on unit u. -/
def seedOn (u : UnitId) (v : BitVec 16) : Instr :=
  match u with
  | .u0 => .seed0 v
  | .u1 => .seed1 v
  | .u2 => .seed2 v

/-- STEP on unit u. -/
def stepOn (u : UnitId) (n : Nat) : Instr :=
  match u with
  | .u0 => .step0 n
  | .u1 => .step1 n
  | .u2 => .step2 n

end Sys2Proof.Machine
end

