-- ==== Sys2Proof/Machine/Assembler.lean ====
section
/-! DEFINITION. Assembler lines and pseudo-commands as syntax trees, their operand ranges and exact expansions
(30_encoding.md R69, R70). The text of a line is not parsed (log 14). -/

namespace Sys2Proof.Machine

/-- The names CLEAR takes for its mask bits (30_encoding.md R69). -/
inductive ClearName where
  | shift
  | err
  | chipcnt
  deriving DecidableEq, Repr

/-- The mask bit of a name: 0 SHIFT, 1 ERR, 2 CHIPCNT (30_encoding.md R69). -/
def ClearName.bit : ClearName → BitVec 3
  | .shift => 1
  | .err => 2
  | .chipcnt => 4

/-- One assembler line (30_encoding.md R69), a pseudo-command (R70) or a host transaction line (R69). -/
inductive AsmLine where
  | nop
  | config (u : Nat) (taps : List Nat) (w o : Nat)
  | seed (u v : Nat)
  | step (u n : Nat)
  | prn (id : Nat)
  | gold (n : Nat)
  | clear (m : Nat)
  | clearNames (names : List ClearName)
  | gen (u : Nat) (taps : List Nat) (w o v n : Nat)
  | getcode (id : Nat)
  | clrerr
  | clrall
  | g1cfg
  | wr (off value : Nat)
  | rd (off : Nat)
  deriving DecidableEq, Repr

/-- The unit a line names (30_encoding.md R65). -/
def unitNamed (u : Nat) : Option UnitId :=
  match u with
  | 0 => some .u0
  | 1 => some .u1
  | 2 => some .u2
  | _ => none

/-- The operand ranges of a CONFIG line: positions 1..16 and 5-bit fields (30_encoding.md R63, R69). -/
def configOperandsFit (u : Nat) (taps : List Nat) (w o : Nat) : Bool :=
  u < 3 && taps.all (fun p => 1 ≤ p && p ≤ 16) && w < 32 && o < 32

/-- The operand ranges of 30_encoding.md R69 and R70; a host offset lies in the window (20_memory.md R40). -/
def AsmLine.wellFormed : AsmLine → Bool
  | .nop => true
  | .config u taps w o => configOperandsFit u taps w o
  | .seed u v => u < 3 && v < 65536
  | .step u n => u < 3 && countFits n
  | .prn id => id < 256
  | .gold n => countFits n
  | .clear m => m < 8
  | .clearNames _ => true
  | .gen u taps w o v n => configOperandsFit u taps w o && v < 65536 && countFits n
  | .getcode id => id < 256
  | .clrerr => true
  | .clrall => true
  | .g1cfg => true
  | .wr off v => off < 64 && v < 2 ^ 32
  | .rd off => off < 64

/-- A CONFIG line's command: its encoding is `tapmask` of the set (30_encoding.md R63, R69). -/
def asmConfig (u : UnitId) (taps : List Nat) (w o : Nat) : Instr :=
  configOn u (tapMask taps) (BitVec.ofNat 5 w) (BitVec.ofNat 5 o)

/-- The commands a line stands for, in order (30_encoding.md R69, R70); none where the line is ill-formed, and no
command for a bus transaction line. -/
def AsmLine.commands : AsmLine → Option (List Instr)
  | .nop => some [.nop]
  | .config u taps w o => (unitNamed u).map fun x => [asmConfig x taps w o]
  | .seed u v => (unitNamed u).map fun x => [seedOn x (BitVec.ofNat 16 v)]
  | .step u n => (unitNamed u).map fun x => [stepOn x n]
  | .prn id => some [.prn (BitVec.ofNat 8 id)]
  | .gold n => some [.gold n]
  | .clear m => some [.clear (BitVec.ofNat 3 m)]
  | .clearNames names => some [.clear (names.foldr (fun c m => c.bit ||| m) 0)]
  | .gen u taps w o v n =>
    (unitNamed u).map fun x => [asmConfig x taps w o, seedOn x (BitVec.ofNat 16 v), stepOn x n]
  | .getcode id => some [.prn (BitVec.ofNat 8 id), .gold Config.codeLen]
  | .clrerr => some [.clear 2]
  | .clrall => some [.clear 7]
  | .g1cfg => some [asmConfig .u0 [3, 10] 10 10]
  | .wr _ _ => none
  | .rd _ => none

/-- The bus events a well-formed line stands for: each command is one word write to CMD (30_encoding.md R69). -/
def AsmLine.events (l : AsmLine) : Option (List BusEvent) :=
  if l.wellFormed then
    match l with
    | .wr off v => some [.transaction (.write (BitVec.ofNat 6 off) .word (BitVec.ofNat 32 v))]
    | .rd off => some [.transaction (.read (BitVec.ofNat 6 off) .word)]
    | other => other.commands.map (·.map fun i => cmdWrite (encode i))
  else none

end Sys2Proof.Machine
end

