-- ==== Sys2Proof/Machine/Timing.lean ====
section
/-! DEFINITION. The informational cycle counts of the reference implementation (70_reset_and_hazards.md R160, R161).
The machine has no time and uses nothing of this file (00_scope.md R14; log 9). -/

namespace Sys2Proof.Machine

/-- Cycles of a command that runs: one a step for STEP and GOLD, one for every other (70_reset_and_hazards.md R160). -/
def cycles : Instr → Nat
  | .nop => 1
  | .config0 _ _ _ => 1
  | .config1 _ _ _ => 1
  | .config2 _ _ _ => 1
  | .seed0 _ => 1
  | .seed1 _ => 1
  | .seed2 _ => 1
  | .step0 n => n
  | .step1 n => n
  | .step2 n => n
  | .prn _ => 1
  | .gold n => n
  | .clear _ => 1

/-- How long the CMD write, and a transaction behind it, waits (70_reset_and_hazards.md R161). -/
def busWait (i : Instr) : Nat := cycles i + Config.cmdOverhead

end Sys2Proof.Machine
end

