-- ==== Sys2Proof/Machine/SourceOps.lean ====
section
/-! DEFINITION. The source's two software operations, `generate` and `get_code`, written from the words the spec quotes
(40_lfsr_engine.md R80 to R82, R92; 41_gold_generator.md R100, R103, R109) on a register that is a list of bits, bit 1
first. The machine does not use them; statements compare it with them, and only for parameters the source calls valid.
DESIGN CHOICE (log 16): on any other parameters the source's answer is unknown (91_not_in_source.md N7), and what these
definitions give there is the model's. -/

namespace Sys2Proof.Machine

/-- The register holding an initial value truncated to `width` bits; position p is the list's p-th element, and
position 1 is the most-significant bit. -/
def srcRegister (width v : Nat) : List Bool := (List.range width).map fun i => v.testBit (width - 1 - i)

/-- "read the bit at" a 1-indexed position of 1..width. DESIGN CHOICE (log 16): the spec gives no bit for a position
outside that range (91_not_in_source.md N7: assume no output); here position 0 reads as position 1 and a position beyond
the width as 0, and no statement compares the machine with such a read. -/
def srcRead (r : List Bool) (p : Nat) : Bool := r.getD (p - 1) false

/-- "compute feedback as the XOR of the register's bits at every position listed in feedback_taps". -/
def srcFeedback (r : List Bool) (taps : List Nat) : Bool := (taps.map (srcRead r)).foldr xor false

/-- "shift the register one position toward the least-significant end ..., discarding the bit that falls off the end,
and insert the computed feedback bit into the new most-significant position". -/
def srcShift (taps : List Nat) (r : List Bool) : List Bool := srcFeedback r taps :: r.dropLast

/-- The register after n steps. -/
def srcAfter (taps : List Nat) : Nat → List Bool → List Bool
  | 0, r => r
  | n + 1, r => srcAfter taps n (srcShift taps r)

/-- n output bits, each sampled before the shift that produces the next state. -/
def srcBits (taps : List Nat) (outputTap : Nat) : Nat → List Bool → List Bool
  | 0, _ => []
  | n + 1, r => srcRead r outputTap :: srcBits taps outputTap n (srcShift taps r)

/-- `generate(width, feedback_taps, output_tap, initial_value, num_bits)`, for a width of at least 1, a nonempty list of
distinct taps and an output tap, all taps in 1..width. What it gives on other parameters is no output of the source
(DESIGN CHOICE, log 16). -/
def generate (width : Nat) (taps : List Nat) (outputTap initial numBits : Nat) : List Bool :=
  srcBits taps outputTap numBits (srcRegister width initial)

/-- `combined[i] = reg_a[i] XOR reg_b[i] XOR reference[i]`. -/
def combineBits (regA regB reference : List Bool) : List Bool :=
  List.zipWith xor (List.zipWith xor regA regB) reference

/-- `get_code(identifier)`: the Chip Sequence, or no sequence for an identifier outside 1..37. Its output taps are those of
the instance's table, which ParamsLegal puts in 1..10; for a table outside that, see `srcRead` (log 16). -/
def getCode (p : Params) (id : Nat) : Option (List Bool) :=
  if h : 1 ≤ id ∧ id ≤ 37 then
    let pair := p.tapAssign[id - 1]'(by omega)
    some (combineBits (generate 10 [10, 9, 8, 6, 3, 2] pair.s1.toNat 1023 1023)
      (generate 10 [10, 9, 8, 6, 3, 2] pair.s2.toNat 1023 1023) (generate 10 [10, 3] 10 1023 1023))
  else none

/-- `sum over i in 0..9 of chip[i] << (9 - i)`: the first ten chips packed MSB-first (41_gold_generator.md R110). -/
def firstTen (chips : List Bool) : Nat := (chips.take 10).foldl (fun acc b => 2 * acc + b.toNat) 0

end Sys2Proof.Machine
end

