-- ==== Sys2Proof/Safety.lean ====
section
/-! DEFINITION. What statements about the core are said in: the invariant of the spec's states, a sequence of commands,
and the observation (10_state.md R22, R25 to R27; 00_scope.md R7, R14). -/

namespace Sys2Proof.Machine

/-- A tap pair lies in [1,10] x [1,10] (00_scope.md R7). -/
def tapPairInRange (t : TapPair) : Bool :=
  (1 ≤ t.s1.toNat && t.s1.toNat ≤ 10) && (1 ≤ t.s2.toNat && t.s2.toNat ≤ 10)

/-- The constraints the spec sets on an instance's parameters, and nothing more (00_scope.md R7): 10 <= WMAX <= 16,
entries in range, entry 1 = (2,6), entry 34 = entry 37. -/
abbrev ParamsLegal (p : Params) : Prop :=
  10 ≤ p.wmax.toNat ∧ p.wmax.toNat ≤ 16 ∧ p.tapAssign.toList.all tapPairInRange = true ∧
    p.tapAssign[0] = ⟨2, 6⟩ ∧ p.tapAssign[33] = p.tapAssign[36]

/-- The unit invariant (10_state.md R22). -/
abbrev UnitLegal (wmax : BitVec 5) (u : LfsrUnit) : Prop :=
  (u.valid = true →
    1 ≤ u.width.toNat ∧ u.width.toNat ≤ wmax.toNat ∧ u.taps ≠ 0 ∧ u.taps >>> u.width.toNat = 0 ∧
      1 ≤ u.otap.toNat ∧ u.otap.toNat ≤ u.width.toNat ∧ u.value.toNat < 2 ^ u.width.toNat) ∧
    (u.valid = false → u = LfsrUnit.unconfigured)

/-- The invariant of the core's states: legal parameters, the unit invariant, CHIPCNT in 0..1022 (10_state.md R25),
PRNSEL in 0..37 (R26) and an ERRCODE this version produces (60_exceptions.md R130). -/
abbrev Inv (s : State) : Prop :=
  ParamsLegal s.params ∧ UnitLegal s.params.wmax s.u0 ∧ UnitLegal s.params.wmax s.u1 ∧ UnitLegal s.params.wmax s.u2 ∧
    s.chipcnt.toNat ≤ 1022 ∧ s.prnsel.toNat ≤ 37 ∧ s.errcode.toNat ≤ 5

/-- Commands run one after the other, as a host's consecutive CMD writes run them (20_memory.md R44, R50). -/
def execAll : List Instr → State → Result
  | [], s => .next s
  | i :: is, s =>
    match exec i s with
    | .next t => execAll is t
    | .fault f => .fault f
    | .refused r => .refused r

/-- The stream entries of bits from one source. -/
def entriesOf (src : StreamSource) (bits : List Bool) : List StreamEntry := bits.map fun b => ⟨src, b⟩

/-- SHIFT after a list of bits was captured in order (10_state.md R24). -/
def captureAll (shift : BitVec 32) (bits : List Bool) : BitVec 32 := bits.foldl captured shift

/-- The set of feedback positions of a unit, in rising order (10_state.md R20). -/
def tapPositions (u : LfsrUnit) : List Nat := (List.range' 1 u.width.toNat).filter fun p => u.taps.getLsbD (p - 1)

/-- `legalcfg(W, T, o)`, as the rule lists it (40_lfsr_engine.md R86). -/
abbrev LegalConfig (p : Params) (width : BitVec 5) (taps : BitVec 16) (otap : BitVec 5) : Prop :=
  1 ≤ width.toNat ∧ width.toNat ≤ p.wmax.toNat ∧ taps ≠ 0 ∧ taps >>> width.toNat = 0 ∧
    1 ≤ otap.toNat ∧ otap.toNat ≤ width.toNat

/-- The unit after n engine steps (40_lfsr_engine.md R83). -/
def LfsrUnit.afterSteps : Nat → LfsrUnit → LfsrUnit
  | 0, x => x
  | n + 1, x => LfsrUnit.afterSteps n x.stepped

/-- The n bits those steps sample, in order (40_lfsr_engine.md R83). -/
def LfsrUnit.outputs : Nat → LfsrUnit → List Bool
  | 0, _ => []
  | n + 1, x => x.out :: LfsrUnit.outputs n x.stepped

/-- The n chips the combiner gives for three units, in order (41_gold_generator.md R103, R106). -/
def goldChips (n : Nat) (x0 x1 x2 : LfsrUnit) : List Bool := combineBits (x1.outputs n) (x2.outputs n) (x0.outputs n)

/-- What a host can read: the eleven readable registers (20_memory.md R43, 60_exceptions.md R144). -/
def readableRegs : List RegName :=
  [.status, .shift, .chipcnt, .prnsel, .info, .ucfg .u0, .uval .u0, .ucfg .u1, .uval .u1, .ucfg .u2, .uval .u2]

/-- Every readable register's value. -/
def readout (s : State) : List Word := readableRegs.map fun r => readReg r s

end Sys2Proof.Machine
end

