-- ==== Sys2Proof/Certificates/Slice0/Obligations.lean ====
section
/-! DEFINITION. The statements for the provers, from the numbered rules of spec/. `configOn u`, `seedOn u` and `stepOn u`
are the rows config0..2, seed0..2 and step0..2 of the opcode table; a statement about them for every `u` covers all
three. Nothing here is about memory bytes: the core has no memory (20_memory.md R40). -/

open Sys2Proof Sys2Proof.Machine

/-! ## Encoding -/

/-- Every well-formed command survives encoding: no bit of any operand is dropped (30_encoding.md section 1). -/
def Obligations.DecodeOfEncodeIsTheCommand : Prop :=
  ∀ i : Instr, i.wellFormed = true → decode (encode i) = .ok i

/-- Each legal word has one meaning and is the word of its command (30_encoding.md section 1). -/
def Obligations.DecodedWordReencodes : Prop :=
  ∀ (w : Word) (i : Instr), decode w = .ok i → encode i = w ∧ i.wellFormed = true

/-- 30_encoding.md R67: at most one row selects a word, the row selected is the decoded command's, and a word without a
row is ILLEGAL. -/
def Obligations.OpcodeRowsDecideTheCommand : Prop :=
  (∀ (w : Word) (r r' : OpcodeRow), r ∈ opcodeTable → r' ∈ opcodeTable → w &&& r.mask = r.pattern →
      w &&& r'.mask = r'.pattern → r = r') ∧
  (∀ (w : Word) (r : OpcodeRow), r ∈ opcodeTable → w &&& r.mask = r.pattern →
      ∃ i, decode w = .ok i ∧ i.mnemonic = r.mnemonic) ∧
  (∀ w : Word, (∀ r ∈ opcodeTable, w &&& r.mask ≠ r.pattern) →
      ∀ s : State, execute w s = .next { s with errcode := if s.errcode = 0 then 1 else s.errcode }) ∧
  opcodeTable.map (fun r => (r.mnemonic, r.pattern, r.mask)) =
    [("NOP", 0x00000000, 0xFFFFFFFF),
     ("CONFIG_0", 0x10000000, 0xFC000000), ("CONFIG_1", 0x14000000, 0xFC000000), ("CONFIG_2", 0x18000000, 0xFC000000),
     ("SEED_0", 0x20000000, 0xFFFF0000), ("SEED_1", 0x24000000, 0xFFFF0000), ("SEED_2", 0x28000000, 0xFFFF0000),
     ("STEP_0", 0x30000000, 0xFFFF0000), ("STEP_1", 0x34000000, 0xFFFF0000), ("STEP_2", 0x38000000, 0xFFFF0000),
     ("PRN", 0x40000000, 0xFFFFFF00), ("GOLD", 0x50000000, 0xFFFF0000), ("CLEAR", 0x60000000, 0xFFFFFFF8)]

/-- 30_encoding.md R71: the example words, and the general form of the variable-register configurations. -/
def Obligations.DecoderReadsTheExampleWords : Prop :=
  decode 0x1008114A = .ok (.config0 (tapMask [3, 10]) 10 10) ∧
  decode 0x140E9942 = .ok (.config1 (tapMask [2, 3, 6, 8, 9, 10]) 10 2) ∧
  decode 0x180E9946 = .ok (.config2 (tapMask [2, 3, 6, 8, 9, 10]) 10 6) ∧
  decode 0x200003FF = .ok (.seed0 1023) ∧ decode 0x240003FF = .ok (.seed1 1023) ∧ decode 0x280003FF = .ok (.seed2 1023) ∧
  decode 0x300003FF = .ok (.step0 1023) ∧ decode 0x40000001 = .ok (.prn 1) ∧ decode 0x40000025 = .ok (.prn 37) ∧
  decode 0x5000000A = .ok (.gold 10) ∧ decode 0x500003FF = .ok (.gold 1023) ∧ decode 0x60000007 = .ok (.clear 7) ∧
  (∀ o : BitVec 5, encode (.config1 (tapMask [2, 3, 6, 8, 9, 10]) 10 o) = 0x140E9940 + o.setWidth 32 ∧
    encode (.config2 (tapMask [2, 3, 6, 8, 9, 10]) 10 o) = 0x180E9940 + o.setWidth 32)

/-- 30_encoding.md R65, R66 and the case table of R60: what a CMD word does, opcode by opcode. -/
def Obligations.ExecuteFollowsTheOpcodeCases : Prop :=
  ∀ (w : Word) (s : State),
    let op := (w.extractLsb' 28 4).toNat
    let unit := w.extractLsb' 26 2
    let imm := w.extractLsb' 0 16
    let illegal : Result := .next { s with errcode := if s.errcode = 0 then 1 else s.errcode }
    (op = 0 → execute w s = if w.extractLsb' 0 28 ≠ 0 then illegal else exec .nop s) ∧
    (op = 1 → (unit = 3 → execute w s = illegal) ∧
      ∀ u, unit = unitCode u →
        execute w s = exec (configOn u (w.extractLsb' 10 16) (w.extractLsb' 5 5) (w.extractLsb' 0 5)) s) ∧
    (op = 2 → (w.extractLsb' 16 10 ≠ 0 ∨ unit = 3 → execute w s = illegal) ∧
      ∀ u, unit = unitCode u → w.extractLsb' 16 10 = 0 → execute w s = exec (seedOn u imm) s) ∧
    (op = 3 → (w.extractLsb' 16 10 ≠ 0 ∨ unit = 3 → execute w s = illegal) ∧
      ∀ u, unit = unitCode u → w.extractLsb' 16 10 = 0 → execute w s = exec (stepOn u imm.toNat) s) ∧
    (op = 4 → execute w s = if w.extractLsb' 8 20 ≠ 0 then illegal else exec (.prn (w.extractLsb' 0 8)) s) ∧
    (op = 5 → execute w s = if w.extractLsb' 16 12 ≠ 0 then illegal else exec (.gold imm.toNat) s) ∧
    (op = 6 → execute w s = if w.extractLsb' 3 25 ≠ 0 then illegal else exec (.clear (w.extractLsb' 0 3)) s) ∧
    (7 ≤ op → execute w s = illegal)

/-- A word laid out little-endian in host memory decodes to the same command, whatever bytes follow (20_memory.md
section 3, Byte order). -/
def Obligations.ByteViewIsLittleEndian : Prop :=
  (∀ (w : Word) (k : Nat), k < 4 → (bytesOfWord w)[k]? = some (w.extractLsb' (8 * k) 8)) ∧
  (∀ (w : Word) (i : Instr) (rest : List Byte), decode w = .ok i →
    decodeBytes (bytesOfWord w ++ rest) = .ok (i, rest)) ∧
  (∀ (w : Word) (e : Illegal) (rest : List Byte), decode w = .error e →
    decodeBytes (bytesOfWord w ++ rest) = .error e)

/-- 30_encoding.md section 4: the pseudo-commands are exactly these CMD writes. -/
def Obligations.PseudoCommandsExpand : Prop :=
  (∀ id, id < 256 → (AsmLine.getcode id).events =
    some [cmdWrite (encode (.prn (BitVec.ofNat 8 id))), cmdWrite 0x500003FF]) ∧
  AsmLine.clrerr.events = some [cmdWrite 0x60000002] ∧ AsmLine.clrall.events = some [cmdWrite 0x60000007] ∧
  AsmLine.g1cfg.events = some [cmdWrite 0x1008114A] ∧
  (∀ (u : UnitId) (taps : List Nat) (w o v n : Nat), (∀ p ∈ taps, 1 ≤ p ∧ p ≤ 16) → w < 32 → o < 32 → v < 65536 →
    n < 65536 →
    (AsmLine.gen (unitCode u).toNat taps w o v n).events =
      some [cmdWrite (encode (configOn u (tapMask taps) (BitVec.ofNat 5 w) (BitVec.ofNat 5 o))),
        cmdWrite (encode (seedOn u (BitVec.ofNat 16 v))), cmdWrite (encode (stepOn u n))])

/-! ## The bus -/

/-- 20_memory.md R44: a word write to CMD executes its word, once for each write; where the word decodes, the step is
exec of that command at the state whose next event is served. -/
def Obligations.StepRunsTheDecodedCommand : Prop :=
  ∀ (s : State) (w : Word) (rest : List BusEvent), s.bus = .transaction (.write 0 .word w) :: rest →
    step s = execute w { s with bus := rest } ∧
    ∀ i, decode w = .ok i → step s = exec i { s with bus := rest }

/-- `withFetchWord` makes the given word the very next command (model's choice, log 12). -/
def Obligations.FetchWordRunsNext : Prop :=
  ∀ (s : State) (w : Nat) (i : Instr), w < 2 ^ 32 → decodeTableWord 32 w = some i →
    step (s.withFetchWord 32 w) = exec i s

/-- 60_exceptions.md R145: with no event the core keeps all its state. -/
def Obligations.IdleCoreKeepsItsState : Prop :=
  ∀ s : State, s.bus = [] → step s = .next s

/-- 10_state.md R30, R33 and the map of 20_memory.md section 2: an admitted read returns the register's fields and
changes nothing else. -/
def Obligations.AdmittedReadReturnsTheRegister : Prop :=
  ∀ (s : State) (rest : List BusEvent) (off : BitVec 6) (n : Nat),
    (off, n) ∈
      [(0x04, s.errcode.toNat + 2 ^ 4 * s.u0.valid.toNat + 2 ^ 5 * s.u1.valid.toNat + 2 ^ 6 * s.u2.valid.toNat),
       (0x08, s.shift.toNat), (0x0C, s.chipcnt.toNat), (0x10, s.prnsel.toNat),
       (0x14, 1 + 2 ^ 8 * 37 + 2 ^ 16 * s.params.wmax.toNat),
       (0x20, s.u0.otap.toNat + 2 ^ 5 * s.u0.width.toNat + 2 ^ 10 * s.u0.taps.toNat + 2 ^ 31 * s.u0.valid.toNat),
       (0x24, s.u0.value.toNat),
       (0x28, s.u1.otap.toNat + 2 ^ 5 * s.u1.width.toNat + 2 ^ 10 * s.u1.taps.toNat + 2 ^ 31 * s.u1.valid.toNat),
       (0x2C, s.u1.value.toNat),
       (0x30, s.u2.otap.toNat + 2 ^ 5 * s.u2.width.toNat + 2 ^ 10 * s.u2.taps.toNat + 2 ^ 31 * s.u2.valid.toNat),
       (0x34, s.u2.value.toNat)] →
    s.bus = .transaction (.read off .word) :: rest →
    step s = .next { s with bus := rest, reads := s.reads ++ [BitVec.ofNat 32 n] }

/-- 20_memory.md R42: every access that is not admitted records BUS and nothing else; a refused read returns 0. -/
def Obligations.RefusedAccessRecordsBus : Prop :=
  ∀ (s : State) (rest : List BusEvent) (off : BitVec 6) (size : AccessSize),
    (¬ (size = .word ∧ off ∈ [0x04#6, 0x08, 0x0C, 0x10, 0x14, 0x20, 0x24, 0x28, 0x2C, 0x30, 0x34]) →
      s.bus = .transaction (.read off size) :: rest →
      step s = .next { s with
        bus := rest, errcode := if s.errcode = 0 then 5 else s.errcode, reads := s.reads ++ [0] }) ∧
    (∀ v, ¬ (size = .word ∧ off = 0) → s.bus = .transaction (.write off size v) :: rest →
      step s = .next { s with bus := rest, errcode := if s.errcode = 0 then 5 else s.errcode })

/-- 20_memory.md sections 1 and 4: BASE is 64-byte aligned, an access whose first byte is in [BASE, BASE+63] waits behind
the earlier ones at its offset, and one whose first byte is outside never reaches the core. That the first byte alone
decides, so that an access which straddles BASE+63 is delivered too, is the model's choice (DESIGN CHOICE, log 8). -/
def Obligations.OnlyTheWindowReachesTheCore : Prop :=
  Config.base % 64 = 0 ∧
  ∀ (s : State) (addr : Nat) (size : AccessSize) (v : Word),
    (Config.base ≤ addr → addr ≤ Config.base + 63 → ∃ off : BitVec 6, off.toNat = addr - Config.base ∧
      hostWrite addr size v s = { s with bus := s.bus ++ [.transaction (.write off size v)] } ∧
      hostRead addr size s = { s with bus := s.bus ++ [.transaction (.read off size)] }) ∧
    (addr < Config.base ∨ Config.base + 63 < addr → hostWrite addr size v s = s ∧ hostRead addr size s = s)

/-- 20_memory.md section 2: the word made of opcode 1, the unit and UCFG[25:0] read back re-applies the configuration
and changes nothing. -/
def Obligations.UcfgReadBackChangesNothing : Prop :=
  ∀ (s : State) (u : UnitId), Inv s → (s.unit u).valid = true →
    execute (1#4 ++ unitCode u ++ (readReg (.ucfg u) s).extractLsb' 0 26) s = .next s

/-- 60_exceptions.md section 3 (Debug): the readable registers show all of the core's state. -/
def Obligations.ReadoutDeterminesTheCore : Prop :=
  ∀ s t : State, readout s = readout t →
    s.u0 = t.u0 ∧ s.u1 = t.u1 ∧ s.u2 = t.u2 ∧ s.shift = t.shift ∧ s.chipcnt = t.chipcnt ∧ s.prnsel = t.prnsel ∧
      s.errcode = t.errcode ∧ s.params.wmax = t.params.wmax

/-- 20_memory.md section 3: two admitted reads of one register with no write between them return the same value and
leave the rest of the state alone. -/
def Obligations.AdmittedReadsAreIdempotent : Prop :=
  ∀ (s : State) (off : BitVec 6) (rest : List BusEvent),
    off ∈ [0x04#6, 0x08, 0x0C, 0x10, 0x14, 0x20, 0x24, 0x28, 0x2C, 0x30, 0x34] →
    s.bus = .transaction (.read off .word) :: .transaction (.read off .word) :: rest →
    ∃ v, Host.Core.run core 2 s = .next { s with bus := rest, reads := s.reads ++ [v, v] }

/-! ## Errors -/

/-- 60_exceptions.md R131: every error records its code if none is recorded, and does nothing else; only PRN with an
invalid identifier does more. -/
def Obligations.EveryErrorRecordsTheFirstOnly : Prop :=
  ∀ s : State,
    let failed (code : BitVec 4) : State := { s with errcode := if s.errcode = 0 then code else s.errcode }
    (∀ w, (∀ i, decode w ≠ .ok i) → execute w s = .next (failed 1)) ∧
    (∀ u taps width otap, ¬ LegalConfig s.params width taps otap →
      exec (configOn u taps width otap) s = .next (failed 2)) ∧
    (∀ u, (s.unit u).valid = false →
      (∀ v, exec (seedOn u v) s = .next (failed 3)) ∧ (∀ n, exec (stepOn u n) s = .next (failed 3)) ∧
        ∀ n, exec (.gold n) s = .next (failed 3)) ∧
    (∀ id : BitVec 8, ¬ (1 ≤ id.toNat ∧ id.toNat ≤ 37) →
      exec (.prn id) s = .next { failed 4 with
        u0 := LfsrUnit.unconfigured, u1 := LfsrUnit.unconfigured, u2 := LfsrUnit.unconfigured, prnsel := 0 }) ∧
    (∀ off size v, ¬ (size = .word ∧ off = 0) → serve (.write off size v) s = .next (failed 5)) ∧
    (∀ off size,
      ¬ (size = .word ∧ off ∈ [0x04#6, 0x08, 0x0C, 0x10, 0x14, 0x20, 0x24, 0x28, 0x2C, 0x30, 0x34]) →
      serve (.read off size) s = .next { failed 5 with reads := s.reads ++ [0] })

/-- 60_exceptions.md R132: a recorded error leaves ERRCODE only by CLEAR with mask bit 1 or by reset. -/
def Obligations.OnlyClearErrOrResetEmptiesTheRecord : Prop :=
  ∀ s t : State, s.errcode ≠ 0 → step s = .next t →
    t.errcode = s.errcode ∨
    (t.errcode = 0 ∧ ∃ e rest, s.bus = e :: rest ∧
      ((∃ w m, e = .transaction (.write 0 .word w) ∧ decode w = .ok (.clear m) ∧ m.getLsbD 1 = true) ∨
        e = .reset ∨ ∃ w waiting, e = .resetDuring w waiting))

/-! ## NOP and CLEAR -/

/-- 42_control.md R120: NOP changes nothing, its only word is 0, and any other word of opcode 0 is ILLEGAL. -/
def Obligations.NopChangesNothing : Prop :=
  (∀ s : State, exec .nop s = .next s) ∧
  (∀ w : Word, decode w = .ok .nop ↔ w = 0) ∧
  (∀ (w : Word) (s : State), (w.extractLsb' 28 4) = 0 → (w.extractLsb' 0 28) ≠ 0 →
    execute w s = .next { s with errcode := if s.errcode = 0 then 1 else s.errcode })

/-- 42_control.md R121: CLEAR clears the selected registers only; no other command empties a recorded ERRCODE; a word
of opcode 6 with a reserved bit clears nothing. -/
def Obligations.ClearClearsTheSelectedRegisters : Prop :=
  (∀ (m : BitVec 3) (s : State), exec (.clear m) s = .next { s with
    shift := if m.getLsbD 0 then 0 else s.shift
    errcode := if m.getLsbD 1 then 0 else s.errcode
    chipcnt := if m.getLsbD 2 then 0 else s.chipcnt }) ∧
  (∀ s : State, exec (.clear 0) s = .next s) ∧
  (∀ (m : BitVec 3), decode (0x60000000 + m.setWidth 32) = .ok (.clear m)) ∧
  (∀ (i : Instr) (s t : State), exec i s = .next t → s.errcode ≠ 0 → t.errcode = 0 →
    ∃ m, i = .clear m ∧ m.getLsbD 1 = true) ∧
  (∀ (w : Word) (s : State), (w.extractLsb' 28 4) = 6 → (w.extractLsb' 3 25) ≠ 0 →
    execute w s = .next { s with errcode := if s.errcode = 0 then 1 else s.errcode })

/-! ## CONFIG and SEED -/

/-- 40_lfsr_engine.md R86 and section 2: CONFIG (config0, config1, config2) sets its unit exactly when the parameters
are legal, re-masking VALUE, and records PARAM with no other effect when they are not. -/
def Obligations.ConfigSetsTheUnitExactlyWhenLegal : Prop :=
  ∀ (s : State) (taps : BitVec 16) (width otap : BitVec 5),
    let made (x : LfsrUnit) : LfsrUnit :=
      { valid := true, width := width, taps := taps, otap := otap
        value := x.value &&& BitVec.ofNat 16 (2 ^ width.toNat - 1) }
    let legal := 1 ≤ width.toNat ∧ width.toNat ≤ s.params.wmax.toNat ∧ taps ≠ 0 ∧ taps >>> width.toNat = 0 ∧
      1 ≤ otap.toNat ∧ otap.toNat ≤ width.toNat
    (legal →
      exec (.config0 taps width otap) s = .next { s with u0 := made s.u0 } ∧
      exec (.config1 taps width otap) s = .next { s with u1 := made s.u1 } ∧
      exec (.config2 taps width otap) s = .next { s with u2 := made s.u2 }) ∧
    (¬ legal →
      exec (.config0 taps width otap) s = .next { s with errcode := if s.errcode = 0 then 2 else s.errcode } ∧
      exec (.config1 taps width otap) s = .next { s with errcode := if s.errcode = 0 then 2 else s.errcode } ∧
      exec (.config2 taps width otap) s = .next { s with errcode := if s.errcode = 0 then 2 else s.errcode })

/-- 40_lfsr_engine.md section 2: SEED (seed0, seed1, seed2) loads the value truncated to the unit's width, and writes
nothing else. -/
def Obligations.SeedLoadsTheTruncatedValue : Prop :=
  ∀ (s : State) (v : BitVec 16), Inv s →
    (s.u0.valid = true → ∃ x : BitVec 16, x.toNat = v.toNat % 2 ^ s.u0.width.toNat ∧
      exec (.seed0 v) s = .next { s with u0 := { s.u0 with value := x } }) ∧
    (s.u1.valid = true → ∃ x : BitVec 16, x.toNat = v.toNat % 2 ^ s.u1.width.toNat ∧
      exec (.seed1 v) s = .next { s with u1 := { s.u1 with value := x } }) ∧
    (s.u2.valid = true → ∃ x : BitVec 16, x.toNat = v.toNat % 2 ^ s.u2.width.toNat ∧
      exec (.seed2 v) s = .next { s with u2 := { s.u2 with value := x } })

/-- 40_lfsr_engine.md R88: SEED, STEP and GOLD on a unit that is not configured raise UNCONF before any effect, for a
count of 0 too. -/
def Obligations.UnreadyUnitsRaiseUnconf : Prop :=
  ∀ (s : State) (u : UnitId), (s.unit u).valid = false →
    (∀ v, exec (seedOn u v) s = .next { s with errcode := if s.errcode = 0 then 3 else s.errcode }) ∧
    (∀ n, exec (stepOn u n) s = .next { s with errcode := if s.errcode = 0 then 3 else s.errcode }) ∧
    (∀ n, exec (.gold n) s = .next { s with errcode := if s.errcode = 0 then 3 else s.errcode })

/-! ## STEP -/

/-- 40_lfsr_engine.md R80 to R83: one engine step in numbers. The sampled bit is value bit W-o before the shift; the
feedback is the parity of the set tap positions whose bit is 1; the next value is fb * 2^(W-1) + v / 2. -/
def Obligations.EngineStepFollowsTheFormulas : Prop :=
  ∀ (s : State) (u : UnitId), Inv s → (s.unit u).valid = true →
    let x := s.unit u
    let W := x.width.toNat
    let v := x.value.toNat
    let fb := ((List.range' 1 W).countP fun p => x.taps.toNat.testBit (p - 1) && decide (v / 2 ^ (W - p) % 2 = 1)) % 2
    let b := decide (v / 2 ^ (W - x.otap.toNat) % 2 = 1)
    ∃ v' : BitVec 16, v'.toNat = fb * 2 ^ (W - 1) + v / 2 ∧
      exec (stepOn u 1) s = .next { s.setUnit u { x with value := v' } with
        stream := s.stream ++ [⟨.unit u, b⟩]
        shift := BitVec.ofNat 32 (2 * s.shift.toNat + b.toNat) }

/-- 40_lfsr_engine.md sections 1 and 2: STEP (step0, step1, step2) by n on a configured unit completes, emits exactly
the n bits that the source's engine gives for the unit's width, tap set, output tap and value, leaves the register the
source's engine leaves, captures the bits in SHIFT in order, and changes nothing else. -/
def Obligations.StepEmitsTheSourceBits : Prop :=
  ∀ (s : State) (u : UnitId) (n : Nat), Inv s → (s.unit u).valid = true →
    let x := s.unit u
    let bits := generate x.width.toNat (tapPositions x) x.otap.toNat x.value.toNat n
    ∃ v' : BitVec 16, v'.toNat < 2 ^ x.width.toNat ∧
      srcRegister x.width.toNat v'.toNat =
        srcAfter (tapPositions x) n (srcRegister x.width.toNat x.value.toNat) ∧
      exec (stepOn u n) s = .next { s.setUnit u { x with value := v' } with
        stream := s.stream ++ entriesOf (.unit u) bits
        shift := captureAll s.shift bits }

/-- 40_lfsr_engine.md R90: a count of 0 emits nothing and changes nothing; a count of 1 emits exactly the output-tap bit
of the value before the command. -/
def Obligations.StepZeroAndStepOne : Prop :=
  ∀ (s : State) (u : UnitId), (s.unit u).valid = true →
    exec (stepOn u 0) s = .next s ∧
    ∃ t, exec (stepOn u 1) s = .next t ∧
      t.stream = s.stream ++ [⟨.unit u,
        ((s.unit u).value >>> ((s.unit u).width.toNat - (s.unit u).otap.toNat)).getLsbD 0⟩]

/-- 40_lfsr_engine.md R91: two STEPs in a row are one STEP of the summed count. -/
def Obligations.StepContinues : Prop :=
  ∀ (s : State) (u : UnitId) (a b : Nat), execAll [stepOn u a, stepOn u b] s = exec (stepOn u (a + b)) s

/-- 40_lfsr_engine.md R84: an engine step keeps the unit invariant and every field but VALUE, is linear over GF(2) in
VALUE for every VALUE below 2^WIDTH (the values 10_state.md R22 allows; the sampled bit is linear for any VALUE), has 0 as a fixed point that emits 0 (with no error raised), and keeps a width-1 unit with TAPS = {1}. -/
def Obligations.EngineStepProperties : Prop :=
  (∀ (wmax : BitVec 5) (x : LfsrUnit), UnitLegal wmax x → x.valid = true →
    ∃ v' : BitVec 16, x.stepped = { x with value := v' } ∧ v'.toNat < 2 ^ x.width.toNat) ∧
  (∀ (x : LfsrUnit) (a b : BitVec 16),
    (1 ≤ x.width.toNat → a.toNat < 2 ^ x.width.toNat → b.toNat < 2 ^ x.width.toNat →
      ({ x with value := a ^^^ b } : LfsrUnit).nextValue =
        ({ x with value := a } : LfsrUnit).nextValue ^^^ ({ x with value := b } : LfsrUnit).nextValue) ∧
    ({ x with value := a ^^^ b } : LfsrUnit).out =
      xor ({ x with value := a } : LfsrUnit).out ({ x with value := b } : LfsrUnit).out) ∧
  (∀ (s : State) (u : UnitId) (n : Nat), (s.unit u).valid = true → (s.unit u).value = 0 →
    ∃ t, exec (stepOn u n) s = .next t ∧ t.unit u = s.unit u ∧ t.errcode = s.errcode ∧
      t.stream = s.stream ++ List.replicate n ⟨.unit u, false⟩) ∧
  (∀ (s : State) (u : UnitId) (n : Nat), Inv s → (s.unit u).valid = true → (s.unit u).width = 1 →
    ∃ t, exec (stepOn u n) s = .next t ∧ t.unit u = s.unit u)

/-- 40_lfsr_engine.md R92: CONFIG, SEED, STEP emit exactly the source's `generate`, whatever the unit held before, and
raise no error. With parameters the source calls invalid, CONFIG records PARAM and the rest runs on what was there. -/
def Obligations.GenEmitsTheSourceSequence : Prop :=
  ∀ (s : State) (u : UnitId) (taps : List Nat) (width otap : BitVec 5) (v : BitVec 16) (n : Nat),
    ParamsLegal s.params → taps.Nodup → (∀ p ∈ taps, 1 ≤ p ∧ p ≤ 16) → n ≤ 65535 →
    (LegalConfig s.params width (tapMask taps) otap →
      ∃ t, execAll [configOn u (tapMask taps) width otap, seedOn u v, stepOn u n] s = .next t ∧
        t.stream = s.stream ++ entriesOf (.unit u) (generate width.toNat taps otap.toNat v.toNat n) ∧
        t.errcode = s.errcode) ∧
    (¬ LegalConfig s.params width (tapMask taps) otap →
      execAll [configOn u (tapMask taps) width otap, seedOn u v, stepOn u n] s =
        execAll [seedOn u v, stepOn u n] { s with errcode := if s.errcode = 0 then 2 else s.errcode } ∧
      ((s.unit u).valid = false → s.errcode = 0 →
        execAll [configOn u (tapMask taps) width otap, seedOn u v, stepOn u n] s = .next { s with errcode := 2 }))

/-- 40_lfsr_engine.md section 3: from 0x3FF the reference register and the variable register (any output tap) are back
at 0x3FF after 1023 steps and not before. -/
def Obligations.RegistersHavePeriod1023 : Prop :=
  ∀ (s : State) (u : UnitId) (k : Nat), (s.unit u).valid = true → (s.unit u).width = 10 →
    ((s.unit u).taps = 0x204 ∨ (s.unit u).taps = 0x3A6) → (s.unit u).value = 0x3FF → 1 ≤ k → k ≤ 1023 →
    ∃ t, exec (stepOn u k) s = .next t ∧ ((t.unit u).value = 0x3FF ↔ k = 1023)

/-- 40_lfsr_engine.md section 2: CONFIG, SEED and STEP (config0..2, seed0..2, step0..2), where they run and where they
raise an error, leave the other units, CHIPCNT, PRNSEL, the parameters and the values already read as they were; CONFIG
and SEED leave the stream and SHIFT too, and SEED and STEP write no field of their unit but VALUE. -/
def Obligations.EngineCommandsFrame : Prop :=
  ∀ (s t : State) (u : UnitId),
    let kept := (∀ u', u' ≠ u → t.unit u' = s.unit u') ∧ t.chipcnt = s.chipcnt ∧ t.prnsel = s.prnsel ∧
      t.params = s.params ∧ t.reads = s.reads ∧ t.bus = s.bus ∧ t.draws = s.draws
    let onlyValue := ∃ v : BitVec 16, t.unit u = { s.unit u with value := v }
    (∀ taps width otap, exec (configOn u taps width otap) s = .next t →
      kept ∧ t.stream = s.stream ∧ t.shift = s.shift) ∧
    (∀ v, exec (seedOn u v) s = .next t → kept ∧ onlyValue ∧ t.stream = s.stream ∧ t.shift = s.shift) ∧
    (∀ n, exec (stepOn u n) s = .next t → kept ∧ onlyValue)

/-! ## PRN and GOLD -/

/-- 41_gold_generator.md R102 and section 3: PRN completes for exactly the identifiers 1..37 (33 included), loading the
fixed parameters and the instance's tap pair; every other identifier fails with an error. -/
def Obligations.PrnLoadsTheValidIdentifiers : Prop :=
  ∀ (s : State) (id : BitVec 8),
    (∀ h : 1 ≤ id.toNat ∧ id.toNat ≤ 37,
      exec (.prn id) s = .next { s with
        u0 := { valid := true, width := 10, taps := 0x204, otap := 10, value := 0x3FF }
        u1 := { valid := true, width := 10, taps := 0x3A6
                otap := (s.params.tapAssign[id.toNat - 1]'(by omega)).s1.setWidth 5, value := 0x3FF }
        u2 := { valid := true, width := 10, taps := 0x3A6
                otap := (s.params.tapAssign[id.toNat - 1]'(by omega)).s2.setWidth 5, value := 0x3FF }
        prnsel := id, shift := 0, chipcnt := 0 }) ∧
    (¬ (1 ≤ id.toNat ∧ id.toNat ≤ 37) → ∃ t, exec (.prn id) s = .next t ∧ t.errcode ≠ 0 ∧ t.prnsel = 0)

/-- 41_gold_generator.md R105: PRN with an invalid identifier records PRN, invalidates all three units, clears PRNSEL
and changes nothing else; a GOLD after it emits nothing. -/
def Obligations.InvalidPrnInvalidatesTheUnits : Prop :=
  ∀ (s : State) (id : BitVec 8) (n : Nat), ¬ (1 ≤ id.toNat ∧ id.toNat ≤ 37) →
    exec (.prn id) s = .next { s with
      u0 := LfsrUnit.unconfigured, u1 := LfsrUnit.unconfigured, u2 := LfsrUnit.unconfigured
      prnsel := 0, errcode := if s.errcode = 0 then 4 else s.errcode } ∧
    execAll [.prn id, .gold n] s = exec (.prn id) s

/-- 41_gold_generator.md section 1: on every legal instance PRN 1 selects the output taps 2 and 6, the one entry the
source gives. -/
def Obligations.PrnOneSelectsTapsTwoAndSix : Prop :=
  ∀ s : State, ParamsLegal s.params →
    ∃ t, exec (.prn 1) s = .next t ∧ t.u1.otap = 2 ∧ t.u2.otap = 6 ∧ t.u0.otap = 10

/-- The reference table of 41_gold_generator.md section 1, whose entries 2..37 the spec marks as general knowledge
(log 2), is what PRN loads on the reference instance. -/
def Obligations.ReferenceTableIsLoaded : Prop :=
  ∀ (s : State) (id a b : Nat), s.params = referenceParams →
    (id, a, b) ∈
      [(1, 2, 6), (2, 3, 7), (3, 4, 8), (4, 5, 9), (5, 1, 9), (6, 2, 10), (7, 1, 8), (8, 2, 9), (9, 3, 10), (10, 2, 3),
       (11, 3, 4), (12, 5, 6), (13, 6, 7), (14, 7, 8), (15, 8, 9), (16, 9, 10), (17, 1, 4), (18, 2, 5), (19, 3, 6),
       (20, 4, 7), (21, 5, 8), (22, 6, 9), (23, 1, 3), (24, 4, 6), (25, 5, 7), (26, 6, 8), (27, 7, 9), (28, 8, 10),
       (29, 1, 6), (30, 2, 7), (31, 3, 8), (32, 4, 9), (33, 5, 10), (34, 4, 10), (35, 1, 7), (36, 2, 8), (37, 4, 10)] →
    ∃ t, exec (.prn (BitVec.ofNat 8 id)) s = .next t ∧ t.u1.otap.toNat = a ∧ t.u2.otap.toNat = b

/-- 41_gold_generator.md R103: the chip is the XOR of the three output bits of the values before any unit steps. -/
def Obligations.GoldChipIsTheXorOfTheOutputs : Prop :=
  ∀ s : State, s.u0.valid = true → s.u1.valid = true → s.u2.valid = true →
    let out (x : LfsrUnit) : Bool := (x.value >>> (x.width.toNat - x.otap.toNat)).getLsbD 0
    ∃ t, exec (.gold 1) s = .next t ∧
      t.stream = s.stream ++ [⟨.gold, xor (xor (out s.u1) (out s.u2)) (out s.u0)⟩] ∧
      t.u0 = s.u0.stepped ∧ t.u1 = s.u1.stepped ∧ t.u2 = s.u2.stepped

/-- 41_gold_generator.md sections 2 and 3: GOLD by n on three configured units, of any legal widths and taps, completes,
emits exactly the combination of the three sequences the source's engine gives, steps all three registers n times,
counts the chips modulo 1023, captures them in SHIFT in order, and changes nothing else. -/
def Obligations.GoldEmitsTheCombinedChips : Prop :=
  ∀ (s : State) (n : Nat), Inv s → s.u0.valid = true → s.u1.valid = true → s.u2.valid = true →
    let seq (x : LfsrUnit) := generate x.width.toNat (tapPositions x) x.otap.toNat x.value.toNat n
    let chips := combineBits (seq s.u1) (seq s.u2) (seq s.u0)
    let after (x : LfsrUnit) (v : BitVec 16) : Prop :=
      v.toNat < 2 ^ x.width.toNat ∧
        srcRegister x.width.toNat v.toNat = srcAfter (tapPositions x) n (srcRegister x.width.toNat x.value.toNat)
    ∃ (v0 v1 v2 : BitVec 16) (c : BitVec 10),
      after s.u0 v0 ∧ after s.u1 v1 ∧ after s.u2 v2 ∧ c.toNat = (s.chipcnt.toNat + n) % 1023 ∧ chips.length = n ∧
      exec (.gold n) s = .next { s with
        u0 := { s.u0 with value := v0 }
        u1 := { s.u1 with value := v1 }
        u2 := { s.u2 with value := v2 }
        chipcnt := c
        stream := s.stream ++ entriesOf .gold chips
        shift := captureAll s.shift chips }

/-- 41_gold_generator.md R109: PRN id, GOLD 1023 emits exactly the source's `get_code(id)`, 1023 chips that depend on
nothing before the PRN; for an invalid identifier it emits nothing and keeps PRN as the first error. -/
def Obligations.GetcodeEmitsTheSourceCode : Prop :=
  ∀ (s : State) (id : BitVec 8), ParamsLegal s.params →
    ((1 ≤ id.toNat ∧ id.toNat ≤ 37) →
      ∃ t chips, execAll [.prn id, .gold 1023] s = .next t ∧ getCode s.params id.toNat = some chips ∧
        chips.length = 1023 ∧ t.stream = s.stream ++ entriesOf .gold chips ∧ t.errcode = s.errcode) ∧
    (¬ (1 ≤ id.toNat ∧ id.toNat ≤ 37) →
      getCode s.params id.toNat = none ∧
      ∃ t, execAll [.prn id, .gold 1023] s = .next t ∧ t.stream = s.stream ∧
        t.errcode = if s.errcode = 0 then 4 else s.errcode)

/-- 41_gold_generator.md R108: after PRN, U1 and U2 differ only in OTAP, and stay so under any commands that do not
configure, seed or step one of them. -/
def Obligations.VariableUnitsAgreeAfterPrn : Prop :=
  ∀ (s t : State) (id : BitVec 8) (cmds : List Instr), 1 ≤ id.toNat → id.toNat ≤ 37 →
    (∀ i ∈ cmds, (∃ n, i = .gold n) ∨ i = .nop ∨ (∃ m, i = .clear m) ∨ (∃ a b c, i = .config0 a b c) ∨
      (∃ v, i = .seed0 v) ∨ ∃ n, i = .step0 n) →
    execAll (.prn id :: cmds) s = .next t →
    t.u1.value = t.u2.value ∧ { t.u1 with otap := 0 } = ({ t.u2 with otap := 0 } : LfsrUnit)

/-- 41_gold_generator.md R110: after PRN id, GOLD 10, SHIFT holds the first ten chips packed MSB-first and nothing
above; for identifier 1 on a legal instance that is octal 1440. -/
def Obligations.ShiftHoldsTheFirstTenChips : Prop :=
  (∀ (s : State) (id : BitVec 8), ParamsLegal s.params → 1 ≤ id.toNat → id.toNat ≤ 37 →
    ∃ t chips, execAll [.prn id, .gold 10] s = .next t ∧ getCode s.params id.toNat = some chips ∧
      t.shift.toNat = firstTen chips ∧ t.shift.toNat < 1024) ∧
  (∀ s : State, ParamsLegal s.params → ∃ t, execAll [.prn 1, .gold 10] s = .next t ∧ t.shift = 0o1440)

/-- 41_gold_generator.md R111: on every legal instance PRN 34 and PRN 37 leave states that differ only in PRNSEL, and
their codes are the same. -/
def Obligations.Identifiers34And37ShareTheirCode : Prop :=
  ∀ s : State, ParamsLegal s.params →
    (∃ t : State, exec (.prn 34) s = .next { t with prnsel := 34 } ∧ exec (.prn 37) s = .next { t with prnsel := 37 }) ∧
    (∃ t : State, execAll [.prn 34, .gold 1023] s = .next { t with prnsel := 34 } ∧
      execAll [.prn 37, .gold 1023] s = .next { t with prnsel := 37 })

/-- 41_gold_generator.md R113: PRN id, GOLD 1023 leaves the units as PRN left them and CHIPCNT 0; no shorter run of
chips, of at least one, leaves any unit at 0x3FF; a further GOLD 1023 emits the same 1023 chips again. -/
def Obligations.GoldCodeRepeatsAfter1023 : Prop :=
  ∀ (s : State) (id : BitVec 8), 1 ≤ id.toNat → id.toNat ≤ 37 →
    ∃ (a b c : State) (chips : List StreamEntry),
      exec (.prn id) s = .next a ∧ exec (.gold 1023) a = .next b ∧ exec (.gold 1023) b = .next c ∧
      b.u0 = a.u0 ∧ b.u1 = a.u1 ∧ b.u2 = a.u2 ∧ b.chipcnt = 0 ∧
      chips.length = 1023 ∧ b.stream = a.stream ++ chips ∧ c.stream = b.stream ++ chips ∧
      ∀ k, 1 ≤ k → k ≤ 1022 → ∃ t, exec (.gold k) a = .next t ∧
        t.u0.value ≠ 0x3FF ∧ t.u1.value ≠ 0x3FF ∧ t.u2.value ≠ 0x3FF

/-- 41_gold_generator.md section 4: with the reference table (log 2) each of the 37 codes has 512 ones in 1023 chips. -/
def Obligations.ReferenceCodesAreBalanced : Prop :=
  ∀ id, 1 ≤ id → id ≤ 37 → ∃ chips, getCode referenceParams id = some chips ∧ chips.length = 1023 ∧
    chips.count true = 512

/-- 10_state.md section 3: after a clear of SHIFT and n >= 10 emitted bits, SHIFT[9:0] holds the last ten of them, the
earliest in bit 9. -/
def Obligations.ShiftHoldsTheLastTenBits : Prop :=
  ∀ (s : State) (n : Nat), 10 ≤ n →
    let lastTen (t : State) : Nat := firstTen ((t.stream.drop (t.stream.length - 10)).map (·.bit))
    (∀ u, (s.unit u).valid = true →
      ∃ t, execAll [.clear 1, stepOn u n] s = .next t ∧ t.shift.toNat % 1024 = lastTen t) ∧
    (s.u0.valid = true → s.u1.valid = true → s.u2.valid = true →
      ∃ t, execAll [.clear 1, .gold n] s = .next t ∧ t.shift.toNat % 1024 = lastTen t)

/-- 10_state.md R25: CHIPCNT stays in 0..1022, GOLD counts its chips modulo 1023, STEP does not count, and PRN, CLEAR
with mask bit 2 and reset clear it. -/
def Obligations.ChipCounterCountsGoldChips : Prop :=
  ∀ s : State, s.chipcnt.toNat ≤ 1022 →
    (∀ n, s.u0.valid = true → s.u1.valid = true → s.u2.valid = true →
      ∃ t, exec (.gold n) s = .next t ∧ t.chipcnt.toNat = (s.chipcnt.toNat + n) % 1023 ∧ t.chipcnt.toNat ≤ 1022) ∧
    (∀ u n t, exec (stepOn u n) s = .next t → t.chipcnt = s.chipcnt) ∧
    (∀ id : BitVec 8, 1 ≤ id.toNat → id.toNat ≤ 37 → ∃ t, exec (.prn id) s = .next t ∧ t.chipcnt = 0) ∧
    (∀ m : BitVec 3, m.getLsbD 2 = true → ∃ t, exec (.clear m) s = .next t ∧ t.chipcnt = 0) ∧
    (∃ t, serveEvent .reset s = .next t ∧ t.chipcnt = 0)

/-- 10_state.md R26: PRNSEL is the identifier of the last successful PRN, 0 after a failed one and after reset; no other
command writes it and no command reads it. -/
def Obligations.PrnselIsInformational : Prop :=
  (∀ (s : State) (id : BitVec 8), 1 ≤ id.toNat → id.toNat ≤ 37 → ∃ t, exec (.prn id) s = .next t ∧ t.prnsel = id) ∧
  (∀ (s : State) (id : BitVec 8), ¬ (1 ≤ id.toNat ∧ id.toNat ≤ 37) → ∃ t, exec (.prn id) s = .next t ∧ t.prnsel = 0) ∧
  (∀ s : State, ∃ t, serveEvent .reset s = .next t ∧ t.prnsel = 0) ∧
  (∀ (i : Instr) (s t : State), (∀ id, i ≠ .prn id) → exec i s = .next t → t.prnsel = s.prnsel) ∧
  (∀ (i : Instr) (s : State) (p : BitVec 8), ∃ t q, exec i s = .next t ∧
    exec i { s with prnsel := p } = .next { t with prnsel := q })

/-- 10_state.md section 4 and 40_lfsr_engine.md section 3: a command appends to the stream and never reads it, the
values read before, the schedule or the draw counter; its result depends on the core state alone. -/
def Obligations.CommandsIgnoreTheHistory : Prop :=
  ∀ (i : Instr) (s : State), ∃ (t : State) (new : List StreamEntry),
    exec i s = .next t ∧ t.stream = s.stream ++ new ∧ t.reads = s.reads ∧ t.bus = s.bus ∧ t.draws = s.draws ∧
    ∀ (l : List StreamEntry) (r : List Word) (b : List BusEvent) (d : Nat),
      exec i { s with stream := l, reads := r, bus := b, draws := d } =
        .next { t with stream := l ++ new, reads := r, bus := b, draws := d }

/-! ## Reset -/

/-- 70_reset_and_hazards.md R150: RESET completes, sets every field of the core's state to its reset value, emits
nothing and leaves the entries already emitted. -/
def Obligations.ResetRestoresTheResetValues : Prop :=
  ∀ (s : State) (rest : List BusEvent), s.bus = .reset :: rest →
    ∃ t, step s = .next t ∧
      (∀ u, t.unit u = { valid := false, width := 0, taps := 0, otap := 0, value := 0 }) ∧
      t.shift = 0 ∧ t.chipcnt = 0 ∧ t.prnsel = 0 ∧ t.errcode = 0 ∧ t.stream = s.stream

/-- 70_reset_and_hazards.md section 1, Reset during a command: the stream holds the first k of the entries the command
would emit, for some k from none to all of them, and the state is the reset state. During a word that is no command it
is the reset state and the stream as it was (DEDUCED, log 6). That the waiting transactions are not served and that one
draw is spent in either case is the model's form (log 5 to 7). -/
def Obligations.ResetDuringACommandLeavesAPrefix : Prop :=
  ∀ (s : State) (w : Word) (waiting : List Transaction) (rest : List BusEvent),
    s.bus = .resetDuring w waiting :: rest →
    let resetWith (stream : List StreamEntry) : State := { State.reset with
      params := s.params, stream := stream, reads := s.reads, bus := rest, draws := s.draws + 1 }
    (∀ i, decode w = .ok i →
      ∃ (t : State) (entries : List StreamEntry) (k : Nat),
        exec i { s with bus := rest } = .next t ∧ t.stream = s.stream ++ entries ∧ k ≤ entries.length ∧
        step s = .next (resetWith (s.stream ++ entries.take k))) ∧
    (∀ e, decode w = .error e → step s = .next (resetWith s.stream))

/-- 70_reset_and_hazards.md R152, for every instance of the parameters: right after reset every SEED, STEP and GOLD
raises UNCONF; NOP, CLEAR, CONFIG, PRN and every admitted read work normally. For a CONFIG with illegal parameters and a
PRN with an invalid identifier that is their own error, PARAM and PRN; the others raise nothing. -/
def Obligations.AfterResetUnitCommandsRaiseUnconf : Prop :=
  ∀ p : Params,
    let r : State := { State.reset with params := p }
    (∀ u v, exec (seedOn u v) r = .next { r with errcode := 3 }) ∧
    (∀ u n, exec (stepOn u n) r = .next { r with errcode := 3 }) ∧
    (∀ n, exec (.gold n) r = .next { r with errcode := 3 }) ∧
    exec .nop r = .next r ∧ (∀ m, exec (.clear m) r = .next r) ∧
    (∀ u taps width otap, LegalConfig p width taps otap →
      exec (configOn u taps width otap) r =
        .next (r.setUnit u { valid := true, width := width, taps := taps, otap := otap, value := 0 })) ∧
    (∀ u taps width otap, ¬ LegalConfig p width taps otap →
      exec (configOn u taps width otap) r = .next { r with errcode := 2 }) ∧
    (∀ id : BitVec 8, 1 ≤ id.toNat → id.toNat ≤ 37 →
      ∃ t, exec (.prn id) r = .next t ∧ t.errcode = 0 ∧ t.prnsel = id ∧
        t.u0.valid = true ∧ t.u1.valid = true ∧ t.u2.valid = true) ∧
    (∀ id : BitVec 8, ¬ (1 ≤ id.toNat ∧ id.toNat ≤ 37) → exec (.prn id) r = .next { r with errcode := 4 }) ∧
    (∀ off ∈ [0x04#6, 0x08, 0x0C, 0x10, 0x14, 0x20, 0x24, 0x28, 0x2C, 0x30, 0x34],
      ∃ v, serve (.read off .word) r = .next { r with reads := [v] })

/-! ## The whole machine -/

/-- The reset state of the reference instance meets the invariant (10_state.md sections 1 and 6; the parameter values
are the model's reference instance, log 1, log 2). -/
def Obligations.ResetMeetsTheInvariant : Prop := Inv State.reset

/-- 10_state.md R22: the reset state of every legal instance meets the invariant, and from every state that meets it,
reachable or not, one step gives a state that meets it: each unit stays legal, and with it CHIPCNT stays in 0..1022,
PRNSEL in 0..37 and ERRCODE a code this version produces. -/
def Obligations.StepKeepsTheInvariant : Prop :=
  (∀ p : Params, ParamsLegal p → Inv { State.reset with params := p }) ∧
  ∀ s t : State, Inv s → step s = .next t → Inv t

/-- 60_exceptions.md sections 1 and 2: no event stops the core, whatever its state. -/
def Obligations.StepNeverStops : Prop :=
  ∀ s : State, ∃ t, step s = .next t

/-- 10_state.md section 5: no step changes the ROM or WMAX. -/
def Obligations.StepKeepsTheParameters : Prop :=
  ∀ s t : State, step s = .next t → t.params = s.params

/-- No step removes or reorders what was emitted or returned: the stream and the read values only grow, and the events
behind the next one stay in order (10_state.md section 4, 20_memory.md section 4). -/
def Obligations.StepOnlyExtendsTheHistory : Prop :=
  ∀ s t : State, step s = .next t →
    (∃ new, t.stream = s.stream ++ new) ∧ (∃ new, t.reads = s.reads ++ new ∧ new.length ≤ 1) ∧ t.bus = s.bus.tail

/-- 70_reset_and_hazards.md section 4: a STEP or GOLD of n makes a waiting transaction wait at most n + CMD_OVERHEAD
cycles, and every other command 1 + CMD_OVERHEAD; informational, the machine has no time (log 9). -/
def Obligations.BusWaitIsBounded : Prop :=
  ∀ (u : UnitId) (n : Nat) (i : Instr),
    busWait (stepOn u n) ≤ n + Config.cmdOverhead ∧ busWait (.gold n) ≤ n + Config.cmdOverhead ∧
    ((∀ u n, i ≠ stepOn u n) → (∀ n, i ≠ .gold n) → busWait i = 1 + Config.cmdOverhead)
end

