-- ==== Sys2Proof/Laws/Decode.lean ====
section
/-! SUPPORT. Words as numbers: the fields of a word, the words of the six formats, and what a row's mask keeps
(30_encoding.md R61, R67). -/

namespace Sys2Proof

/-- Concatenation puts the left operand above the right one (00_scope.md R9). -/
theorem toNat_append_add {n m : Nat} (x : BitVec n) (y : BitVec m) :
    (x ++ y).toNat = x.toNat * 2 ^ m + y.toNat := by
  rw [BitVec.toNat_append, ← Nat.shiftLeft_add_eq_or_of_lt y.isLt, Nat.shiftLeft_eq]

/-- A field of a word, as a number. -/
theorem field_toNat (w : Word) (lo len : Nat) : (w.extractLsb' lo len).toNat = w.toNat / 2 ^ lo % 2 ^ len := by
  rw [BitVec.extractLsb'_toNat, Nat.shiftRight_eq_div_pow]

theorem fieldOp_toNat (w : Word) : (fieldOp w).toNat = w.toNat / 2 ^ 28 % 2 ^ 4 := field_toNat w 28 4
theorem fieldUnit_toNat (w : Word) : (fieldUnit w).toNat = w.toNat / 2 ^ 26 % 2 ^ 2 := field_toNat w 26 2
theorem fieldTaps_toNat (w : Word) : (fieldTaps w).toNat = w.toNat / 2 ^ 10 % 2 ^ 16 := field_toNat w 10 16
theorem fieldWidth_toNat (w : Word) : (fieldWidth w).toNat = w.toNat / 2 ^ 5 % 2 ^ 5 := field_toNat w 5 5
theorem fieldOtap_toNat (w : Word) : (fieldOtap w).toNat = w.toNat / 2 ^ 0 % 2 ^ 5 := field_toNat w 0 5
theorem fieldImm_toNat (w : Word) : (fieldImm w).toNat = w.toNat / 2 ^ 0 % 2 ^ 16 := field_toNat w 0 16
theorem fieldId_toNat (w : Word) : (fieldId w).toNat = w.toNat / 2 ^ 0 % 2 ^ 8 := field_toNat w 0 8
theorem fieldMask_toNat (w : Word) : (fieldMask w).toNat = w.toNat / 2 ^ 0 % 2 ^ 3 := field_toNat w 0 3

theorem encodeC_toNat (unit : BitVec 2) (taps : BitVec 16) (width otap : BitVec 5) :
    (encodeC unit taps width otap).toNat =
      2 ^ 28 + unit.toNat * 2 ^ 26 + taps.toNat * 2 ^ 10 + width.toNat * 2 ^ 5 + otap.toNat := by
  show (1#4 ++ unit ++ taps ++ width ++ otap).toNat = _
  simp only [toNat_append_add, BitVec.toNat_ofNat]
  omega

theorem encodeU_toNat (op : BitVec 4) (unit : BitVec 2) (imm : BitVec 16) :
    (encodeU op unit imm).toNat = op.toNat * 2 ^ 28 + unit.toNat * 2 ^ 26 + imm.toNat := by
  show (op ++ unit ++ 0#10 ++ imm).toNat = _
  simp only [toNat_append_add, BitVec.toNat_ofNat]
  omega

theorem encodeP_toNat (id : BitVec 8) : (encodeP id).toNat = 4 * 2 ^ 28 + id.toNat := by
  show (4#4 ++ 0#20 ++ id).toNat = _
  simp only [toNat_append_add, BitVec.toNat_ofNat]
  omega

theorem encodeG_toNat (imm : BitVec 16) : (encodeG imm).toNat = 5 * 2 ^ 28 + imm.toNat := by
  show (5#4 ++ 0#12 ++ imm).toNat = _
  simp only [toNat_append_add, BitVec.toNat_ofNat]
  omega

theorem encodeK_toNat (mask : BitVec 3) : (encodeK mask).toNat = 6 * 2 ^ 28 + mask.toNat := by
  show (6#4 ++ 0#25 ++ mask).toNat = _
  simp only [toNat_append_add, BitVec.toNat_ofNat]
  omega

/-- A mask of all bits from k up keeps those bits of a word. -/
theorem and_highMask (w : Word) (k : Nat) : w &&& (BitVec.allOnes 32 <<< k) = (w >>> k) <<< k := by
  ext i hi
  by_cases h : i < k
  · simp [h]
  · have hki : k + (i - k) = i := by omega
    simp only [BitVec.getElem_and, BitVec.getElem_shiftLeft, BitVec.getElem_allOnes, h, decide_false,
      Bool.not_false, Bool.true_and, Bool.and_true, BitVec.getElem_ushiftRight, hki, BitVec.getLsbD_eq_getElem hi]

/-- A row whose mask is every bit from k up selects a word by the number above its low k bits. -/
theorem selects_iff_div {r : OpcodeRow} {k : Nat} (hm : r.mask = BitVec.allOnes 32 <<< k)
    (hp : r.pattern.toNat % 2 ^ k = 0) (w : Word) :
    r.selects w = true ↔ w.toNat / 2 ^ k = r.pattern.toNat / 2 ^ k := by
  have hw := w.isLt
  have hsplit := Nat.div_add_mod r.pattern.toNat (2 ^ k)
  have hle : w.toNat / 2 ^ k * 2 ^ k ≤ w.toNat := Nat.div_mul_le_self _ _
  have hnum : (w &&& r.mask).toNat = w.toNat / 2 ^ k * 2 ^ k := by
    rw [hm, and_highMask, BitVec.toNat_shiftLeft, BitVec.toNat_ushiftRight, Nat.shiftLeft_eq,
      Nat.shiftRight_eq_div_pow]
    exact Nat.mod_eq_of_lt (by omega)
  simp only [OpcodeRow.selects, beq_iff_eq]
  constructor
  · intro h
    rw [← h, hnum, Nat.mul_div_cancel _ (Nat.two_pow_pos k)]
  · intro h
    apply BitVec.eq_of_toNat_eq
    rw [hnum, h, Nat.mul_comm]
    omega

end Sys2Proof
end

