-- ==== Sys2Proof/Laws/State.lean ====
section
/-! SUPPORT. One lemma per field per state update: what each shared operation writes and what it leaves. -/

namespace Sys2Proof.Machine

variable (s : State) (u u' : UnitId) (x : LfsrUnit) (src : StreamSource) (b : Bool) (e : ErrCode) (v : Word)

/-! ## Units -/

@[simp] theorem State.unit_u0 : s.unit .u0 = s.u0 := rfl
@[simp] theorem State.unit_u1 : s.unit .u1 = s.u1 := rfl
@[simp] theorem State.unit_u2 : s.unit .u2 = s.u2 := rfl

@[simp] theorem State.unit_setUnit_same : (s.setUnit u x).unit u = x := by cases u <;> rfl

theorem State.unit_setUnit_other (h : u' ≠ u) : (s.setUnit u x).unit u' = s.unit u' := by
  cases u <;> cases u' <;> first | rfl | exact absurd rfl h

@[simp] theorem State.setUnit_setUnit (y : LfsrUnit) : (s.setUnit u x).setUnit u y = s.setUnit u y := by
  cases u <;> rfl

@[simp] theorem State.setUnit_self : s.setUnit u (s.unit u) = s := by cases u <;> rfl

@[simp] theorem State.setUnit_shift : (s.setUnit u x).shift = s.shift := by cases u <;> rfl
@[simp] theorem State.setUnit_chipcnt : (s.setUnit u x).chipcnt = s.chipcnt := by cases u <;> rfl
@[simp] theorem State.setUnit_prnsel : (s.setUnit u x).prnsel = s.prnsel := by cases u <;> rfl
@[simp] theorem State.setUnit_errcode : (s.setUnit u x).errcode = s.errcode := by cases u <;> rfl
@[simp] theorem State.setUnit_params : (s.setUnit u x).params = s.params := by cases u <;> rfl
@[simp] theorem State.setUnit_stream : (s.setUnit u x).stream = s.stream := by cases u <;> rfl
@[simp] theorem State.setUnit_reads : (s.setUnit u x).reads = s.reads := by cases u <;> rfl
@[simp] theorem State.setUnit_bus : (s.setUnit u x).bus = s.bus := by cases u <;> rfl
@[simp] theorem State.setUnit_draws : (s.setUnit u x).draws = s.draws := by cases u <;> rfl
@[simp] theorem State.setUnit_u0_u0 : (s.setUnit .u0 x).u0 = x := rfl
@[simp] theorem State.setUnit_u0_u1 : (s.setUnit .u0 x).u1 = s.u1 := rfl
@[simp] theorem State.setUnit_u0_u2 : (s.setUnit .u0 x).u2 = s.u2 := rfl
@[simp] theorem State.setUnit_u1_u0 : (s.setUnit .u1 x).u0 = s.u0 := rfl
@[simp] theorem State.setUnit_u1_u1 : (s.setUnit .u1 x).u1 = x := rfl
@[simp] theorem State.setUnit_u1_u2 : (s.setUnit .u1 x).u2 = s.u2 := rfl
@[simp] theorem State.setUnit_u2_u0 : (s.setUnit .u2 x).u0 = s.u0 := rfl
@[simp] theorem State.setUnit_u2_u1 : (s.setUnit .u2 x).u1 = s.u1 := rfl
@[simp] theorem State.setUnit_u2_u2 : (s.setUnit .u2 x).u2 = x := rfl

/-! ## Emitting -/

@[simp] theorem State.emit_u0 : (s.emit src b).u0 = s.u0 := rfl
@[simp] theorem State.emit_u1 : (s.emit src b).u1 = s.u1 := rfl
@[simp] theorem State.emit_u2 : (s.emit src b).u2 = s.u2 := rfl
@[simp] theorem State.emit_shift : (s.emit src b).shift = captured s.shift b := rfl
@[simp] theorem State.emit_chipcnt : (s.emit src b).chipcnt = s.chipcnt := rfl
@[simp] theorem State.emit_prnsel : (s.emit src b).prnsel = s.prnsel := rfl
@[simp] theorem State.emit_errcode : (s.emit src b).errcode = s.errcode := rfl
@[simp] theorem State.emit_params : (s.emit src b).params = s.params := rfl
@[simp] theorem State.emit_stream : (s.emit src b).stream = s.stream ++ [⟨src, b⟩] := rfl
@[simp] theorem State.emit_reads : (s.emit src b).reads = s.reads := rfl
@[simp] theorem State.emit_bus : (s.emit src b).bus = s.bus := rfl
@[simp] theorem State.emit_draws : (s.emit src b).draws = s.draws := rfl
@[simp] theorem State.unit_emit : (s.emit src b).unit u = s.unit u := by cases u <;> rfl

/-! ## Counting a chip -/

@[simp] theorem State.countChip_u0 : (s.countChip).u0 = s.u0 := rfl
@[simp] theorem State.countChip_u1 : (s.countChip).u1 = s.u1 := rfl
@[simp] theorem State.countChip_u2 : (s.countChip).u2 = s.u2 := rfl
@[simp] theorem State.countChip_shift : (s.countChip).shift = s.shift := rfl
@[simp] theorem State.countChip_chipcnt : (s.countChip).chipcnt = BitVec.ofNat 10 ((s.chipcnt.toNat + 1) % 1023) := rfl
@[simp] theorem State.countChip_prnsel : (s.countChip).prnsel = s.prnsel := rfl
@[simp] theorem State.countChip_errcode : (s.countChip).errcode = s.errcode := rfl
@[simp] theorem State.countChip_params : (s.countChip).params = s.params := rfl
@[simp] theorem State.countChip_stream : (s.countChip).stream = s.stream := rfl
@[simp] theorem State.countChip_reads : (s.countChip).reads = s.reads := rfl
@[simp] theorem State.countChip_bus : (s.countChip).bus = s.bus := rfl
@[simp] theorem State.countChip_draws : (s.countChip).draws = s.draws := rfl

/-! ## Recording an error -/

@[simp] theorem State.record_u0 : (s.record e).u0 = s.u0 := rfl
@[simp] theorem State.record_u1 : (s.record e).u1 = s.u1 := rfl
@[simp] theorem State.record_u2 : (s.record e).u2 = s.u2 := rfl
@[simp] theorem State.record_shift : (s.record e).shift = s.shift := rfl
@[simp] theorem State.record_chipcnt : (s.record e).chipcnt = s.chipcnt := rfl
@[simp] theorem State.record_prnsel : (s.record e).prnsel = s.prnsel := rfl
@[simp] theorem State.record_errcode : (s.record e).errcode = recorded s.errcode e := rfl
@[simp] theorem State.record_params : (s.record e).params = s.params := rfl
@[simp] theorem State.record_stream : (s.record e).stream = s.stream := rfl
@[simp] theorem State.record_reads : (s.record e).reads = s.reads := rfl
@[simp] theorem State.record_bus : (s.record e).bus = s.bus := rfl
@[simp] theorem State.record_draws : (s.record e).draws = s.draws := rfl
@[simp] theorem State.unit_record : (s.record e).unit u = s.unit u := by cases u <;> rfl

/-! ## Replying to a read -/

@[simp] theorem State.reply_u0 : (s.reply v).u0 = s.u0 := rfl
@[simp] theorem State.reply_u1 : (s.reply v).u1 = s.u1 := rfl
@[simp] theorem State.reply_u2 : (s.reply v).u2 = s.u2 := rfl
@[simp] theorem State.reply_shift : (s.reply v).shift = s.shift := rfl
@[simp] theorem State.reply_chipcnt : (s.reply v).chipcnt = s.chipcnt := rfl
@[simp] theorem State.reply_prnsel : (s.reply v).prnsel = s.prnsel := rfl
@[simp] theorem State.reply_errcode : (s.reply v).errcode = s.errcode := rfl
@[simp] theorem State.reply_params : (s.reply v).params = s.params := rfl
@[simp] theorem State.reply_stream : (s.reply v).stream = s.stream := rfl
@[simp] theorem State.reply_reads : (s.reply v).reads = s.reads ++ [v] := rfl
@[simp] theorem State.reply_bus : (s.reply v).bus = s.bus := rfl
@[simp] theorem State.reply_draws : (s.reply v).draws = s.draws := rfl

/-! ## Reset -/

@[simp] theorem State.applyReset_u0 : (s.applyReset).u0 = LfsrUnit.unconfigured := rfl
@[simp] theorem State.applyReset_u1 : (s.applyReset).u1 = LfsrUnit.unconfigured := rfl
@[simp] theorem State.applyReset_u2 : (s.applyReset).u2 = LfsrUnit.unconfigured := rfl
@[simp] theorem State.applyReset_shift : (s.applyReset).shift = 0 := rfl
@[simp] theorem State.applyReset_chipcnt : (s.applyReset).chipcnt = 0 := rfl
@[simp] theorem State.applyReset_prnsel : (s.applyReset).prnsel = 0 := rfl
@[simp] theorem State.applyReset_errcode : (s.applyReset).errcode = 0 := rfl
@[simp] theorem State.applyReset_params : (s.applyReset).params = s.params := rfl
@[simp] theorem State.applyReset_stream : (s.applyReset).stream = s.stream := rfl
@[simp] theorem State.applyReset_reads : (s.applyReset).reads = s.reads := rfl
@[simp] theorem State.applyReset_bus : (s.applyReset).bus = s.bus := rfl
@[simp] theorem State.applyReset_draws : (s.applyReset).draws = s.draws := rfl

/-! ## The reset state -/

@[simp] theorem State.reset_u0 : State.reset.u0 = LfsrUnit.unconfigured := rfl
@[simp] theorem State.reset_u1 : State.reset.u1 = LfsrUnit.unconfigured := rfl
@[simp] theorem State.reset_u2 : State.reset.u2 = LfsrUnit.unconfigured := rfl
@[simp] theorem State.reset_shift : State.reset.shift = 0 := rfl
@[simp] theorem State.reset_chipcnt : State.reset.chipcnt = 0 := rfl
@[simp] theorem State.reset_prnsel : State.reset.prnsel = 0 := rfl
@[simp] theorem State.reset_errcode : State.reset.errcode = 0 := rfl
@[simp] theorem State.reset_draws : State.reset.draws = 0 := rfl
@[simp] theorem State.reset_params : State.reset.params = referenceParams := rfl
@[simp] theorem State.reset_stream : State.reset.stream = [] := rfl
@[simp] theorem State.reset_reads : State.reset.reads = [] := rfl
@[simp] theorem State.reset_bus : State.reset.bus = [] := rfl

/-! ## The error code -/

/-- The first error is kept (60_exceptions.md R131). -/
theorem recorded_of_ne_zero {c : BitVec 4} (h : c ≠ 0) : recorded c e = c := if_neg h

@[simp] theorem recorded_zero : recorded 0 e = e.code := rfl

theorem ErrCode.code_ne_zero : e.code ≠ 0 := by cases e <;> decide

theorem recorded_ne_zero (c : BitVec 4) : recorded c e ≠ 0 := by
  unfold recorded
  split
  · exact e.code_ne_zero
  · assumption

/-- ERRCODE stays a code this version produces (60_exceptions.md R130). -/
theorem recorded_le_five {c : BitVec 4} (h : c.toNat ≤ 5) : (recorded c e).toNat ≤ 5 := by
  unfold recorded
  split
  · cases e <;> decide
  · exact h

end Sys2Proof.Machine
end

