-- ==== Sys2Proof/Laws/Operands.lean ====
section
/-! SUPPORT. The engine's bit functions on one unit, and that they keep the unit invariant (10_state.md R22). -/

namespace Sys2Proof.Machine

variable {wmax : BitVec 5} {x : LfsrUnit}

@[simp] theorem LfsrUnit.stepped_valid : x.stepped.valid = x.valid := rfl
@[simp] theorem LfsrUnit.stepped_width : x.stepped.width = x.width := rfl
@[simp] theorem LfsrUnit.stepped_taps : x.stepped.taps = x.taps := rfl
@[simp] theorem LfsrUnit.stepped_otap : x.stepped.otap = x.otap := rfl
@[simp] theorem LfsrUnit.stepped_value : x.stepped.value = x.nextValue := rfl

@[simp] theorem LfsrUnit.afterSteps_zero : x.afterSteps 0 = x := rfl
theorem LfsrUnit.afterSteps_succ (n : Nat) : x.afterSteps (n + 1) = x.stepped.afterSteps n := rfl
@[simp] theorem LfsrUnit.outputs_zero : x.outputs 0 = [] := rfl
theorem LfsrUnit.outputs_succ (n : Nat) : x.outputs (n + 1) = x.out :: x.stepped.outputs n := rfl

@[simp] theorem LfsrUnit.length_outputs (n : Nat) : (x.outputs n).length = n := by
  induction n generalizing x with
  | zero => rfl
  | succ n ih => simp [outputs_succ, ih]

theorem LfsrUnit.afterSteps_add (a b : Nat) : x.afterSteps (a + b) = (x.afterSteps a).afterSteps b := by
  induction a generalizing x with
  | zero => simp
  | succ a ih => rw [Nat.add_right_comm, afterSteps_succ, ih, ← afterSteps_succ]

theorem LfsrUnit.outputs_add (a b : Nat) : x.outputs (a + b) = x.outputs a ++ (x.afterSteps a).outputs b := by
  induction a generalizing x with
  | zero => simp
  | succ a ih => rw [Nat.add_right_comm, outputs_succ, ih, outputs_succ, afterSteps_succ, List.cons_append]

/-- A shorter run samples a prefix of the bits (70_reset_and_hazards.md R153). -/
theorem LfsrUnit.outputs_take {n k : Nat} (h : k ≤ n) : (x.outputs n).take k = x.outputs k := by
  obtain ⟨m, rfl⟩ := Nat.exists_eq_add_of_le h
  rw [outputs_add, List.take_left' (length_outputs k)]

/-- Steps write VALUE and nothing else (40_lfsr_engine.md R83). -/
theorem LfsrUnit.afterSteps_fields (n : Nat) :
    (x.afterSteps n).valid = x.valid ∧ (x.afterSteps n).width = x.width ∧ (x.afterSteps n).taps = x.taps ∧
      (x.afterSteps n).otap = x.otap := by
  induction n generalizing x with
  | zero => exact ⟨rfl, rfl, rfl, rfl⟩
  | succ n ih => simpa [afterSteps_succ] using @ih x.stepped

/-- The mask of a width of at most 16 bits, as a number (00_scope.md R9). -/
theorem widthMask_toNat {w : Nat} (h : w ≤ 16) : (widthMask w).toNat = 2 ^ w - 1 := by
  have := Nat.pow_le_pow_right (n := 2) (by omega) h
  simp only [widthMask, BitVec.toNat_ofNat]
  exact Nat.mod_eq_of_lt (by omega)

/-- Masking truncates to the width (40_lfsr_engine.md R87). -/
theorem and_widthMask_toNat (v : BitVec 16) {w : Nat} (h : w ≤ 16) : (v &&& widthMask w).toNat = v.toNat % 2 ^ w := by
  rw [BitVec.toNat_and, widthMask_toNat h, Nat.and_two_pow_sub_one_eq_mod]

/-- The next VALUE fits the width, because the old one does (40_lfsr_engine.md R82). -/
theorem LfsrUnit.nextValue_lt (h1 : 1 ≤ x.width.toNat) (hv : x.value.toNat < 2 ^ x.width.toNat) :
    x.nextValue.toNat < 2 ^ x.width.toNat := by
  have hp : 2 ^ x.width.toNat = 2 * 2 ^ (x.width.toNat - 1) := by
    rw [← pow_succ', Nat.sub_add_cancel h1]
  simp only [nextValue, BitVec.toNat_or]
  apply Nat.or_lt_two_pow
  · rw [BitVec.toNat_shiftLeft, Nat.shiftLeft_eq]
    refine lt_of_le_of_lt (Nat.mod_le _ _) ?_
    have : ((BitVec.ofBool x.feedback).setWidth 16).toNat ≤ 1 := by cases x.feedback <;> decide
    have hpos := Nat.two_pow_pos (x.width.toNat - 1)
    nlinarith
  · rw [BitVec.toNat_ushiftRight, Nat.shiftRight_eq_div_pow]
    omega

theorem UnitLegal.unconfigured : UnitLegal wmax LfsrUnit.unconfigured := by
  constructor
  · intro h; exact absurd h (by decide)
  · intro _; rfl

theorem UnitLegal.stepped (h : UnitLegal wmax x) (hv : x.valid = true) : UnitLegal wmax x.stepped := by
  obtain ⟨h1, h2, h3, h4, h5, h6, h7⟩ := h.1 hv
  exact ⟨fun _ => ⟨h1, h2, h3, h4, h5, h6, LfsrUnit.nextValue_lt h1 h7⟩, fun hf => by simp [hv] at hf⟩

theorem UnitLegal.afterSteps (h : UnitLegal wmax x) (hv : x.valid = true) (n : Nat) :
    UnitLegal wmax (x.afterSteps n) := by
  induction n generalizing x with
  | zero => exact h
  | succ n ih => exact ih (h.stepped hv) hv

theorem legalCfg_iff {width : BitVec 5} {taps : BitVec 16} {otap : BitVec 5} (p : Params) :
    legalCfg p.wmax width taps otap = true ↔ LegalConfig p width taps otap := by
  simp [legalCfg, LegalConfig, and_assoc]

theorem UnitLegal.configured {p : Params} (hp : p.wmax.toNat ≤ 16) {width : BitVec 5} {taps : BitVec 16}
    {otap : BitVec 5} (h : LegalConfig p width taps otap) (x : LfsrUnit) :
    UnitLegal p.wmax (x.configured taps width otap) := by
  obtain ⟨h1, h2, h3, h4, h5, h6⟩ := h
  refine ⟨fun _ => ⟨h1, h2, h3, h4, h5, h6, ?_⟩, fun hf => by simp [LfsrUnit.configured] at hf⟩
  show (x.value &&& widthMask width.toNat).toNat < _
  rw [and_widthMask_toNat _ (by omega)]
  exact Nat.mod_lt _ (Nat.two_pow_pos _)

theorem UnitLegal.seeded (hw : wmax.toNat ≤ 16) (h : UnitLegal wmax x) (hv : x.valid = true) (v : BitVec 16) :
    UnitLegal wmax (x.seeded v) := by
  obtain ⟨h1, h2, h3, h4, h5, h6, _⟩ := h.1 hv
  refine ⟨fun _ => ⟨h1, h2, h3, h4, h5, h6, ?_⟩, fun hf => by simp [LfsrUnit.seeded, hv] at hf⟩
  show (v &&& widthMask x.width.toNat).toNat < _
  rw [and_widthMask_toNat _ (by omega)]
  exact Nat.mod_lt _ (Nat.two_pow_pos _)

end Sys2Proof.Machine
end

