-- ==== Sys2Proof/Laws/Engine.lean ====
section
/-! SUPPORT. What each command's shared operation can do, said once (40_lfsr_engine.md, 41_gold_generator.md). -/

namespace Sys2Proof.Machine

variable (s : State) (u : UnitId)

/-! ## CONFIG and SEED -/

theorem configUnit_legal {taps : BitVec 16} {width otap : BitVec 5} (h : LegalConfig s.params width taps otap) :
    configUnit u taps width otap s = s.setUnit u ((s.unit u).configured taps width otap) :=
  if_pos ((legalCfg_iff _).2 h)

theorem configUnit_illegal {taps : BitVec 16} {width otap : BitVec 5} (h : ¬ LegalConfig s.params width taps otap) :
    configUnit u taps width otap s = s.record .param :=
  if_neg fun hc => h ((legalCfg_iff _).1 hc)

theorem requireUnit_valid {effect : State} (h : (s.unit u).valid = true) : requireUnit u effect s = effect := if_pos h

theorem requireUnit_invalid {effect : State} (h : (s.unit u).valid = false) :
    requireUnit u effect s = s.record .unconf := by
  simp [requireUnit, h, raise]

/-- A command behind `require` either has its effect or records UNCONF (40_lfsr_engine.md R88). -/
theorem requireUnit_cases (effect : State) :
    ((s.unit u).valid = true ∧ requireUnit u effect s = effect) ∨
      ((s.unit u).valid = false ∧ requireUnit u effect s = s.record .unconf) := by
  cases h : (s.unit u).valid
  · exact .inr ⟨rfl, requireUnit_invalid s u h⟩
  · exact .inl ⟨rfl, requireUnit_valid s u h⟩

/-! ## Emitting a list of bits -/

@[simp] theorem entriesOf_nil (src : StreamSource) : entriesOf src [] = [] := rfl
@[simp] theorem entriesOf_cons (src : StreamSource) (b : Bool) (bs : List Bool) :
    entriesOf src (b :: bs) = ⟨src, b⟩ :: entriesOf src bs := rfl
@[simp] theorem entriesOf_append (src : StreamSource) (as bs : List Bool) :
    entriesOf src (as ++ bs) = entriesOf src as ++ entriesOf src bs := List.map_append
@[simp] theorem length_entriesOf (src : StreamSource) (bs : List Bool) : (entriesOf src bs).length = bs.length :=
  List.length_map _
@[simp] theorem captureAll_nil (c : BitVec 32) : captureAll c [] = c := rfl
@[simp] theorem captureAll_cons (c : BitVec 32) (b : Bool) (bs : List Bool) :
    captureAll c (b :: bs) = captureAll (captured c b) bs := rfl
theorem captureAll_append (c : BitVec 32) (as bs : List Bool) :
    captureAll c (as ++ bs) = captureAll (captureAll c as) bs := List.foldl_append

/-! ## STEP -/

/-- STEP's loop as a whole: the unit after n steps, n entries on the stream, and their capture
(40_lfsr_engine.md R89). -/
theorem stepRun_eq (n : Nat) :
    stepRun u n s =
      { s.setUnit u ((s.unit u).afterSteps n) with
        stream := s.stream ++ entriesOf (.unit u) ((s.unit u).outputs n)
        shift := captureAll s.shift ((s.unit u).outputs n) } := by
  induction n generalizing s with
  | zero => cases u <;> simp [stepRun, State.setUnit, State.unit]
  | succ n ih =>
    rw [stepRun, ih]
    cases u <;>
      simp [stepEmit, stepUnit, State.emit, State.setUnit, State.unit, LfsrUnit.afterSteps_succ, LfsrUnit.outputs_succ]

theorem stepRun_add (a b : Nat) : stepRun u (a + b) s = stepRun u b (stepRun u a s) := by
  induction a generalizing s with
  | zero => simp [stepRun]
  | succ a ih => rw [Nat.add_right_comm]; exact ih _

/-! ## GOLD -/

/-- CHIPCNT after n chips (10_state.md R25). -/
def chipsCounted (n : Nat) (c : BitVec 10) : BitVec 10 := (fun c => BitVec.ofNat 10 ((c.toNat + 1) % 1023))^[n] c

theorem chipsCounted_toNat {c : BitVec 10} (h : c.toNat ≤ 1022) (n : Nat) :
    (chipsCounted n c).toNat = (c.toNat + n) % 1023 := by
  induction n generalizing c with
  | zero => simp only [chipsCounted, Function.iterate_zero, id]; omega
  | succ n ih =>
    have hc : (BitVec.ofNat 10 ((c.toNat + 1) % 1023)).toNat = (c.toNat + 1) % 1023 := by
      rw [BitVec.toNat_ofNat]; omega
    have := ih (c := BitVec.ofNat 10 ((c.toNat + 1) % 1023)) (by omega)
    rw [show chipsCounted (n + 1) c = chipsCounted n (BitVec.ofNat 10 ((c.toNat + 1) % 1023)) from rfl, this, hc]
    omega

theorem goldChips_succ (n : Nat) (x0 x1 x2 : LfsrUnit) :
    goldChips (n + 1) x0 x1 x2 = xor (xor x1.out x2.out) x0.out :: goldChips n x0.stepped x1.stepped x2.stepped := rfl

@[simp] theorem length_goldChips (n : Nat) (x0 x1 x2 : LfsrUnit) : (goldChips n x0 x1 x2).length = n := by
  simp [goldChips, combineBits]

/-- GOLD's loop as a whole (41_gold_generator.md R107). -/
theorem goldRun_eq (n : Nat) :
    goldRun n s =
      { s with
        u0 := s.u0.afterSteps n
        u1 := s.u1.afterSteps n
        u2 := s.u2.afterSteps n
        chipcnt := chipsCounted n s.chipcnt
        stream := s.stream ++ entriesOf .gold (goldChips n s.u0 s.u1 s.u2)
        shift := captureAll s.shift (goldChips n s.u0 s.u1 s.u2) } := by
  induction n generalizing s with
  | zero => simp [goldRun, chipsCounted, goldChips, combineBits]
  | succ n ih =>
    rw [goldRun, ih, goldChips_succ]
    simp [goldEmit, goldAdvance, goldChip, stepUnit, State.emit, State.countChip, State.setUnit, State.unit,
      LfsrUnit.afterSteps_succ, chipsCounted, Config.codeLen]

theorem goldRun_add (a b : Nat) : goldRun (a + b) s = goldRun b (goldRun a s) := by
  induction a generalizing s with
  | zero => simp [goldRun]
  | succ a ih => rw [Nat.add_right_comm]; exact ih _

theorem goldCommand_ready {s : State} (h0 : s.u0.valid = true) (h1 : s.u1.valid = true) (h2 : s.u2.valid = true)
    (n : Nat) : goldCommand n s = goldRun n s := by
  simp [goldCommand, requireUnit, h0, h1, h2]

theorem goldCommand_unready {s : State} (h : ¬ (s.u0.valid = true ∧ s.u1.valid = true ∧ s.u2.valid = true))
    (n : Nat) : goldCommand n s = s.record .unconf := by
  cases h0 : s.u0.valid <;> cases h1 : s.u1.valid <;> cases h2 : s.u2.valid <;>
    simp_all [goldCommand, requireUnit, raise]

/-! ## PRN -/

theorem prnCommand_valid {id : BitVec 8} (h : 1 ≤ id.toNat ∧ id.toNat ≤ 37) :
    prnCommand id s = prnLoad id (s.params.tapAssign[id.toNat - 1]'(by omega)) s := by
  simp [prnCommand, tapRom, h]

theorem prnCommand_invalid {id : BitVec 8} (h : ¬ (1 ≤ id.toNat ∧ id.toNat ≤ 37)) :
    prnCommand id s = prnInvalid s := by
  simp [prnCommand, tapRom, h]

/-- A variable register loaded with a tap in range is a legal unit (41_gold_generator.md R100). -/
theorem UnitLegal.goldVariable {wmax : BitVec 5} (hw : 10 ≤ wmax.toNat) {t : BitVec 4} (h1 : 1 ≤ t.toNat)
    (h2 : t.toNat ≤ 10) : UnitLegal wmax (LfsrUnit.goldVariable t) := by
  have ht : (t.setWidth 5).toNat = t.toNat := by rw [BitVec.toNat_setWidth]; omega
  refine ⟨fun _ => ⟨?_, hw, ?_, ?_, ?_, ?_, ?_⟩, fun hf => by simp [LfsrUnit.goldVariable] at hf⟩
  · show 1 ≤ (10#5).toNat; decide
  · show 0x3A6#16 ≠ 0; decide
  · show 0x3A6#16 >>> (10#5).toNat = 0; decide
  · show 1 ≤ (t.setWidth 5).toNat; omega
  · show (t.setWidth 5).toNat ≤ 10; omega
  · show (0x3FF#16).toNat < 2 ^ (10#5).toNat; decide

theorem UnitLegal.goldReference {wmax : BitVec 5} (hw : 10 ≤ wmax.toNat) : UnitLegal wmax LfsrUnit.goldReference :=
  ⟨fun _ => ⟨by decide, hw, by decide, by decide, by decide, by decide, by decide⟩, fun hf => by simp [LfsrUnit.goldReference] at hf⟩

/-- Every ROM entry of a legal instance is in range (00_scope.md R7). -/
theorem ParamsLegal.entry {p : Params} (h : ParamsLegal p) {i : Nat} (hi : i < 37) : tapPairInRange (p.tapAssign[i]) = true := by
  have := List.all_eq_true.1 h.2.2.1 (p.tapAssign[i]) (by simp)
  exact this

end Sys2Proof.Machine
end

