-- ==== Sys2Proof/Laws/Bus.lean ====
section
/-! SUPPORT. What serving one bus event does, case by case (20_memory.md R45, 70_reset_and_hazards.md R150, R153). -/

namespace Sys2Proof.Machine

variable (s : State)

theorem execute_ok {w : Word} {i : Instr} (h : decode w = .ok i) : execute w s = exec i s := by
  simp only [execute, h]

theorem execute_error {w : Word} {e : Illegal} (h : decode w = .error e) : execute w s = .next (s.record .illegal) := by
  simp only [execute, h, raise]

/-- A write is admitted exactly when it is a word write to offset 0 (20_memory.md R45). -/
theorem admittedWrite_iff (off : BitVec 6) (size : AccessSize) :
    admittedWrite off size = true ↔ size = .word ∧ off = 0 := by
  cases size <;> revert off <;> decide

/-- The admitted reads, offset by offset (20_memory.md R45). -/
theorem admittedRead_word :
    admittedRead 0x04 .word = some .status ∧ admittedRead 0x08 .word = some .shift ∧
      admittedRead 0x0C .word = some .chipcnt ∧ admittedRead 0x10 .word = some .prnsel ∧
      admittedRead 0x14 .word = some .info ∧
      admittedRead 0x20 .word = some (.ucfg .u0) ∧ admittedRead 0x24 .word = some (.uval .u0) ∧
      admittedRead 0x28 .word = some (.ucfg .u1) ∧ admittedRead 0x2C .word = some (.uval .u1) ∧
      admittedRead 0x30 .word = some (.ucfg .u2) ∧ admittedRead 0x34 .word = some (.uval .u2) := by
  decide

/-- Every other read is refused (20_memory.md R42). -/
theorem admittedRead_none_iff (off : BitVec 6) (size : AccessSize) :
    admittedRead off size = none ↔
      ¬ (size = .word ∧ off ∈ [0x04#6, 0x08, 0x0C, 0x10, 0x14, 0x20, 0x24, 0x28, 0x2C, 0x30, 0x34]) := by
  cases size <;> revert off <;> decide

theorem step_idle (h : s.bus = []) : step s = .next s := by
  simp only [step, serveNext, h]

theorem step_event {e : BusEvent} {rest : List BusEvent} (h : s.bus = e :: rest) :
    step s = serveEvent e { s with bus := rest } := by
  simp only [step, serveNext, h]

theorem serveWrite_cmd (v : Word) : serveWrite 0 .word v s = execute v s := rfl

theorem serveWrite_refused {off : BitVec 6} {size : AccessSize} (h : ¬ (size = .word ∧ off = 0)) (v : Word) :
    serveWrite off size v s = .next (s.record .bus) :=
  if_neg fun hc => h ((admittedWrite_iff off size).1 hc)

theorem serveRead_admitted {off : BitVec 6} {size : AccessSize} {r : RegName} (h : admittedRead off size = some r) :
    serveRead off size s = s.reply (readReg r s) := by
  simp only [serveRead, h]

theorem serveRead_refused {off : BitVec 6} {size : AccessSize} (h : admittedRead off size = none) :
    serveRead off size s = (s.record .bus).reply 0 := by
  simp only [serveRead, h, raise]

/-- A reset during a command: the reset state behind a drawn prefix of its loop (70_reset_and_hazards.md R153). -/
theorem abandon_ok {w : Word} {i : Instr} (h : decode w = .ok i) :
    abandon w s =
      { (runPrefix i (drawnPrefix (emissionCount i s) s) s).applyReset with draws := s.draws + 1 } := by
  simp only [abandon, h]

/-- A reset during a word that is no command (log 6). -/
theorem abandon_error {w : Word} {e : Illegal} (h : decode w = .error e) :
    abandon w s = { s.applyReset with draws := s.draws + 1 } := by
  simp only [abandon, h]

/-- The draw of R153 is one of 0..n. -/
theorem drawnPrefix_le (n : Nat) : drawnPrefix n s ≤ n := Nat.lt_succ_iff.1 (Nat.mod_lt _ (Nat.succ_pos n))

end Sys2Proof.Machine
end

