-- ==== Sys2Proof/Laws/Exec.lean ====
section
/-! SUPPORT. exec as one equation per shape of command, and sequences of commands. -/

namespace Sys2Proof.Machine

variable (s : State) (u : UnitId)

theorem exec_nop : exec .nop s = .next s := rfl
theorem exec_configOn (taps : BitVec 16) (width otap : BitVec 5) :
    exec (configOn u taps width otap) s = .next (configUnit u taps width otap s) := by cases u <;> rfl
theorem exec_seedOn (v : BitVec 16) : exec (seedOn u v) s = .next (seedUnit u v s) := by cases u <;> rfl
theorem exec_stepOn (n : Nat) : exec (stepOn u n) s = .next (stepCommand u n s) := by cases u <;> rfl
theorem exec_prn (id : BitVec 8) : exec (.prn id) s = .next (prnCommand id s) := rfl
theorem exec_gold (n : Nat) : exec (.gold n) s = .next (goldCommand n s) := rfl
theorem exec_clear (m : BitVec 3) : exec (.clear m) s = .next (clearRegs m s) := rfl

/-- Every command is one of seven shapes (30_encoding.md R62). -/
theorem Instr.shapes (i : Instr) :
    i = .nop ∨ (∃ u t w o, i = configOn u t w o) ∨ (∃ u v, i = seedOn u v) ∨ (∃ u n, i = stepOn u n) ∨
      (∃ id, i = .prn id) ∨ (∃ n, i = .gold n) ∨ ∃ m, i = .clear m := by
  cases i with
  | nop => exact .inl rfl
  | config0 t w o => exact .inr (.inl ⟨.u0, t, w, o, rfl⟩)
  | config1 t w o => exact .inr (.inl ⟨.u1, t, w, o, rfl⟩)
  | config2 t w o => exact .inr (.inl ⟨.u2, t, w, o, rfl⟩)
  | seed0 v => exact .inr (.inr (.inl ⟨.u0, v, rfl⟩))
  | seed1 v => exact .inr (.inr (.inl ⟨.u1, v, rfl⟩))
  | seed2 v => exact .inr (.inr (.inl ⟨.u2, v, rfl⟩))
  | step0 n => exact .inr (.inr (.inr (.inl ⟨.u0, n, rfl⟩)))
  | step1 n => exact .inr (.inr (.inr (.inl ⟨.u1, n, rfl⟩)))
  | step2 n => exact .inr (.inr (.inr (.inl ⟨.u2, n, rfl⟩)))
  | prn id => exact .inr (.inr (.inr (.inr (.inl ⟨id, rfl⟩))))
  | gold n => exact .inr (.inr (.inr (.inr (.inr (.inl ⟨n, rfl⟩)))))
  | clear m => exact .inr (.inr (.inr (.inr (.inr (.inr ⟨m, rfl⟩)))))

@[simp] theorem execAll_nil : execAll [] s = .next s := rfl

/-- A sequence goes on from the state its first command leaves (20_memory.md R50). -/
theorem execAll_cons {i : Instr} {t : State} (h : exec i s = .next t) (is : List Instr) :
    execAll (i :: is) s = execAll is t := by
  simp only [execAll, h]

theorem execAll_one (i : Instr) {t : State} (h : exec i s = .next t) : execAll [i] s = .next t := by
  rw [execAll_cons s h, execAll_nil]

end Sys2Proof.Machine
end

