-- ==== Sys2Proof/Laws/PerInstr.lean ====
section
/-! SUPPORT. The family EncodesRow: a command's word is selected by its own row of the opcode table
(30_encoding.md R67). -/

namespace Sys2Proof.Laws.EncodesRow

/-- The word of a well-formed command is selected by the row that bears its mnemonic. -/
def Statement (i : Instr) : Prop :=
  i.wellFormed = true → ∃ r ∈ opcodeTable, r.mnemonic = i.mnemonic ∧ r.selects (encode i) = true

theorem nop : Statement .nop := fun _ => ⟨⟨"NOP", 0x00000000, 0xFFFFFFFF⟩, by decide, by decide, by decide⟩

/-- A row is shown to select a word by its number above the row's free bits. -/
theorem byRow {i : Instr} (r : OpcodeRow) (k : Nat) (hr : r ∈ opcodeTable)
    (hn : r.mnemonic = i.mnemonic) (hm : r.mask = BitVec.allOnes 32 <<< k) (hp : r.pattern.toNat % 2 ^ k = 0)
    (hw : (encode i).toNat / 2 ^ k = r.pattern.toNat / 2 ^ k) : Statement i :=
  fun _ => ⟨r, hr, hn, (selects_iff_div hm hp _).2 hw⟩

theorem config0 (taps : BitVec 16) (width otap : BitVec 5) : Statement (.config0 taps width otap) :=
  byRow ⟨"CONFIG_0", 0x10000000, 0xFC000000⟩ 26 (by decide) rfl (by decide) (by decide) (by
    simp [encode, encodeC_toNat]; omega)

theorem config1 (taps : BitVec 16) (width otap : BitVec 5) : Statement (.config1 taps width otap) :=
  byRow ⟨"CONFIG_1", 0x14000000, 0xFC000000⟩ 26 (by decide) rfl (by decide) (by decide) (by
    simp [encode, encodeC_toNat]; omega)

theorem config2 (taps : BitVec 16) (width otap : BitVec 5) : Statement (.config2 taps width otap) :=
  byRow ⟨"CONFIG_2", 0x18000000, 0xFC000000⟩ 26 (by decide) rfl (by decide) (by decide) (by
    simp [encode, encodeC_toNat]; omega)

theorem seed0 (v : BitVec 16) : Statement (.seed0 v) :=
  byRow ⟨"SEED_0", 0x20000000, 0xFFFF0000⟩ 16 (by decide) rfl (by decide) (by decide) (by
    simp [encode, encodeU_toNat]; omega)

theorem seed1 (v : BitVec 16) : Statement (.seed1 v) :=
  byRow ⟨"SEED_1", 0x24000000, 0xFFFF0000⟩ 16 (by decide) rfl (by decide) (by decide) (by
    simp [encode, encodeU_toNat]; omega)

theorem seed2 (v : BitVec 16) : Statement (.seed2 v) :=
  byRow ⟨"SEED_2", 0x28000000, 0xFFFF0000⟩ 16 (by decide) rfl (by decide) (by decide) (by
    simp [encode, encodeU_toNat]; omega)

theorem step0 (n : Nat) : Statement (.step0 n) :=
  byRow ⟨"STEP_0", 0x30000000, 0xFFFF0000⟩ 16 (by decide) rfl (by decide) (by decide) (by
    simp [encode, encodeU_toNat]; omega)

theorem step1 (n : Nat) : Statement (.step1 n) :=
  byRow ⟨"STEP_1", 0x34000000, 0xFFFF0000⟩ 16 (by decide) rfl (by decide) (by decide) (by
    simp [encode, encodeU_toNat]; omega)

theorem step2 (n : Nat) : Statement (.step2 n) :=
  byRow ⟨"STEP_2", 0x38000000, 0xFFFF0000⟩ 16 (by decide) rfl (by decide) (by decide) (by
    simp [encode, encodeU_toNat]; omega)

theorem prn (id : BitVec 8) : Statement (.prn id) :=
  byRow ⟨"PRN", 0x40000000, 0xFFFFFF00⟩ 8 (by decide) rfl (by decide) (by decide) (by
    simp [encode, encodeP_toNat]; omega)

theorem gold (n : Nat) : Statement (.gold n) :=
  byRow ⟨"GOLD", 0x50000000, 0xFFFF0000⟩ 16 (by decide) rfl (by decide) (by decide) (by
    simp [encode, encodeG_toNat]; omega)

theorem clear (m : BitVec 3) : Statement (.clear m) :=
  byRow ⟨"CLEAR", 0x60000000, 0xFFFFFFF8⟩ 3 (by decide) rfl (by decide) (by decide) (by
    simp [encode, encodeK_toNat]; omega)

end Sys2Proof.Laws.EncodesRow
end

