-- ==== Sys2Proof/Tests/Slice0.lean ====
section
/-! SUPPORT. The model's own tests. Words and expected values are taken from 30_encoding.md R71 and 95_test_vectors.md,
or written out by hand from the rule named; each runs one step on a small state. -/

namespace Sys2Proof.Machine.Tests

/-- The next state of an outcome. -/
def nextOf : Result → Option State
  | .next s => some s
  | .fault _ => none
  | .refused _ => none

/-- The reset state with U0 as a given legal unit. -/
def withU0 (u : LfsrUnit) : State := { State.reset with u0 := u }

/-- U0 as V-CFG-1 and `SEED 0, v` leave it. -/
def refUnit (v : BitVec 16) : LfsrUnit := { valid := true, width := 10, taps := 0x204, otap := 10, value := v }

/-- One bus transaction as the next event. -/
def serving (t : Transaction) (s : State) : State := { s with bus := [.transaction t] }

/-- The bits on the stream. -/
def bitsOf (s : State) : List Bool := s.stream.map (·.bit)

/-! ## WellFormed: an ill-formed term for each check -/

theorem test_count_too_large_step0 : Instr.wellFormed (.step0 65536) = false := by decide
theorem test_count_too_large_step1 : Instr.wellFormed (.step1 65536) = false := by decide
theorem test_count_too_large_step2 : Instr.wellFormed (.step2 65536) = false := by decide
theorem test_count_too_large_gold : Instr.wellFormed (.gold 65536) = false := by decide
theorem test_largest_count_fits : Instr.wellFormed (.step0 65535) = true := by decide
theorem test_asm_unit_three : AsmLine.wellFormed (.seed 3 0) = false := by decide
theorem test_asm_tap_zero : AsmLine.wellFormed (.config 0 [0] 1 1) = false := by decide
theorem test_asm_tap_seventeen : AsmLine.wellFormed (.config 0 [17] 1 1) = false := by decide
theorem test_asm_width_too_large : AsmLine.wellFormed (.config 0 [1] 32 1) = false := by decide
theorem test_asm_otap_too_large : AsmLine.wellFormed (.config 0 [1] 1 32) = false := by decide
theorem test_asm_seed_too_large : AsmLine.wellFormed (.seed 0 65536) = false := by decide
theorem test_asm_id_too_large : AsmLine.wellFormed (.prn 256) = false := by decide
theorem test_asm_mask_too_large : AsmLine.wellFormed (.clear 8) = false := by decide
theorem test_asm_count_too_large : AsmLine.wellFormed (.gen 0 [1] 1 1 0 65536) = false := by decide
theorem test_asm_offset_outside_window : AsmLine.wellFormed (.rd 64) = false := by decide

/-! ## Decoding: words of R71 and of the match column of R67, bit by bit -/

theorem test_decode_nop : decode 0x00000000 = .ok .nop := by decide
theorem test_decode_config0 : decode 0x1008114A = .ok (.config0 0x204 10 10) := by decide
theorem test_decode_config1 : decode 0x140E9942 = .ok (.config1 0x3A6 10 2) := by decide
theorem test_decode_config2 : decode 0x180E9946 = .ok (.config2 0x3A6 10 6) := by decide
theorem test_decode_config_field_bits :
    decode 0b0001_00_1000000000000001_10001_00001 = .ok (.config0 0x8001 17 1) := by decide
theorem test_decode_seed0 : decode 0x200003FF = .ok (.seed0 0x3FF) := by decide
theorem test_decode_seed1 : decode 0x240003FF = .ok (.seed1 0x3FF) := by decide
theorem test_decode_seed2 : decode 0b0010_10_0000000000_1000000000000001 = .ok (.seed2 0x8001) := by decide
theorem test_decode_step0 : decode 0x300003FF = .ok (.step0 1023) := by decide
theorem test_decode_step1 : decode 0x3400FFFF = .ok (.step1 65535) := by decide
theorem test_decode_step2 : decode 0b0011_10_0000000000_1000000000000001 = .ok (.step2 32769) := by decide
theorem test_decode_prn : decode 0x40000025 = .ok (.prn 37) := by decide
theorem test_decode_gold : decode 0x500003FF = .ok (.gold 1023) := by decide
theorem test_decode_clear : decode 0x60000007 = .ok (.clear 7) := by decide
theorem test_decode_clear_one_bit : decode 0x60000004 = .ok (.clear 4) := by decide
/-- V-NOP-2. -/
theorem test_decode_nop_reserved_bit : decode 0x00000001 = .error .reservedBits := by decide
/-- V-CFG-8. -/
theorem test_decode_config_unit_three : decode 0x1C08114A = .error .unitThree := by decide
/-- V-SEED-4. -/
theorem test_decode_seed_reserved_bit : decode 0x20010000 = .error .reservedBits := by decide
/-- V-STEP-14. -/
theorem test_decode_step_unit_three : decode 0x3C000001 = .error .unitThree := by decide
/-- V-PRN-5, V-GOLD-6, V-CLR-4. -/
theorem test_decode_reserved_bits :
    decode 0x40000100 = .error .reservedBits ∧ decode 0x50010000 = .error .reservedBits ∧
      decode 0x60000008 = .error .reservedBits := by decide
/-- V-DEC-1, V-DEC-2. -/
theorem test_decode_reserved_opcode :
    decode 0x70000000 = .error .reservedOpcode ∧ decode 0xF0000000 = .error .reservedOpcode := by decide
/-- R46: the low byte of 0x1008114A lies lowest. -/
theorem test_decode_bytes :
    decodeBytes [0x4A, 0x11, 0x08, 0x10, 0xAA] = .ok (.config0 0x204 10 10, [0xAA]) := by decide
theorem test_decode_bytes_short : decodeBytes [0x4A, 0x11, 0x08] = .error .truncated := by decide
theorem test_table_word : decodeTableWord 32 0x18000000 = some (.config2 0 0 0) := by decide
theorem test_table_word_refused : decodeTableWord 32 0x1C000000 = none := by decide
theorem test_encode_examples :
    encode (.config2 0x3A6 10 6) = 0x180E9946 ∧ encode (.seed2 1023) = 0x280003FF ∧
      encode (.gold 10) = 0x5000000A ∧ encode (.prn 37) = 0x40000025 ∧ encode (.clear 7) = 0x60000007 := by decide

/-! ## Assembler -/

/-- R71. -/
theorem test_asm_config : (AsmLine.config 1 [2, 3, 6, 8, 9, 10] 10 2).events = some [cmdWrite 0x140E9942] := by decide
/-- R70. -/
theorem test_asm_g1cfg : AsmLine.g1cfg.events = some [cmdWrite 0x1008114A] := by decide
theorem test_asm_getcode : (AsmLine.getcode 1).events = some [cmdWrite 0x40000001, cmdWrite 0x500003FF] := by decide
/-- R69. -/
theorem test_asm_clear_names : (AsmLine.clearNames [.chipcnt, .shift]).events = some [cmdWrite 0x60000005] := by decide

/-! ## Engine -/

/-- Section 2.1: VALUE 0x07F steps to 0x23F. -/
theorem test_feedback_enters_top : (refUnit 0x07F).nextValue = 0x23F := by decide
/-- Section 2.1: the variable register, 0x0FF steps to 0x27F and samples 0 at position 2. -/
theorem test_variable_register :
    ({ LfsrUnit.goldVariable 2 with value := 0x0FF } : LfsrUnit).stepped.value = 0x27F ∧
      ({ LfsrUnit.goldVariable 2 with value := 0x0FF } : LfsrUnit).out = false := by decide
/-- V-CFG-1. -/
theorem test_config0 :
    ((nextOf (exec (.config0 0x204 10 10) .reset)).map fun s => (readReg (.ucfg .u0) s, statusWord s)) =
      some (0x8008114A, 0x10) := by decide
/-- V-CFG-10: VALUE is re-masked. -/
theorem test_config0_narrows :
    ((nextOf (exec (.config0 0xC 4 4) (withU0 (refUnit 0x3FF)))).map fun s => (ucfgWord s.u0, s.u0.value)) =
      some (0x80003084, 0xF) := by decide
/-- V-CFG-7: W = 11 > WMAX = 10. -/
theorem test_config1_param :
    ((nextOf (exec (.config1 0x204 11 10) .reset)).map fun s => (s.u1, statusWord s)) =
      some (LfsrUnit.unconfigured, 2) := by decide
/-- V-CFG-11 on U2: legal where WMAX = 16. -/
theorem test_config2_wide :
    ((nextOf (exec (.config2 0xB400 16 16)
      { State.reset with params := { referenceParams with wmax := 16 } })).map fun s => s.u2) =
      some { valid := true, width := 16, taps := 0xB400, otap := 16, value := 0 } := by decide
/-- V-CFG-2 to V-CFG-6. -/
theorem test_legalcfg_refuses :
    legalCfg 10 0 0x204 0 = false ∧ legalCfg 10 10 0 10 = false ∧ legalCfg 10 9 0x204 9 = false ∧
      legalCfg 10 10 0x204 11 = false ∧ legalCfg 10 10 0x204 0 = false := by decide
/-- V-SEED-1. -/
theorem test_seed0_truncates :
    ((nextOf (exec (.seed0 0xFFFF) (withU0 (refUnit 0)))).map fun s => (s.u0.value, s.errcode)) =
      some (0x3FF, 0) := by decide
/-- V-SEED-2 on U1. -/
theorem test_seed1_unconfigured :
    ((nextOf (exec (.seed1 0x3FF) .reset)).map fun s => (s.u1.value, statusWord s)) = some (0, 3) := by decide
theorem test_seed2_writes_u2 :
    ((nextOf (exec (.seed2 0x155) { State.reset with u2 := refUnit 0 })).map fun s => (s.u0.value, s.u2.value)) =
      some (0, 0x155) := by decide
/-- V-STEP-5. -/
theorem test_step0_32 :
    ((nextOf (exec (.step0 32) (withU0 (refUnit 0x3FF)))).map fun s => (s.u0.value, s.shift)) =
      some (0x3DD, 0xFFC713B2) := by
  decide +kernel
/-- V-STEP-13: the check comes first for a count of 0 too. -/
theorem test_step0_unconfigured :
    ((nextOf (exec (.step0 0) .reset)).map fun s => (s.stream, statusWord s)) = some ([], 3) := by decide
/-- V-STEP-10 on U1: period 15. -/
theorem test_step1_period_15 :
    ((nextOf (exec (.step1 15) { State.reset with
      u1 := { valid := true, width := 4, taps := 0xC, otap := 4, value := 1 } })).map fun s => (s.u1.value, bitsOf s)) =
      some (1, [true, false, false, false, true, false, false, true, true, false, true, false, true, true, true]) := by
  decide +kernel
/-- V-STEP-11 on U2: a one-tap rotate, and the tag of the entries. -/
theorem test_step2_rotate :
    ((nextOf (exec (.step2 4) { State.reset with
      u2 := { valid := true, width := 4, taps := 8, otap := 4, value := 8 } })).map fun s => (s.u2.value, s.stream)) =
      some (8, [⟨.unit .u2, false⟩, ⟨.unit .u2, false⟩, ⟨.unit .u2, false⟩, ⟨.unit .u2, true⟩]) := by decide
/-- Section 2.1, mapping corner: OTAP 1 samples the most-significant bit. -/
theorem test_output_tap_one :
    ((nextOf (exec (.step0 12) (withU0 { refUnit 0x3FF with otap := 1 }))).map fun s => (s.u0.value, bitsOf s)) =
      some (0x08E, [true, false, false, false, true, true, true, false, false, false, true, false]) := by
  decide +kernel

/-! ## Gold -/

/-- V-PRN-1. -/
theorem test_prn1 :
    ((nextOf (exec (.prn 1) .reset)).map readout) =
      some [0x70, 0, 0, 1, 0x000A2501, 0x8008114A, 0x3FF, 0x800E9942, 0x3FF, 0x800E9946, 0x3FF] := by decide
/-- V-PRN-3. -/
theorem test_prn38 :
    ((nextOf (exec (.prn 38) (prnLoad 1 ⟨2, 6⟩ .reset))).map fun s => (statusWord s, s.prnsel, s.u0)) =
      some (4, 0, LfsrUnit.unconfigured) := by decide
/-- V-GOLD-1, and the octal value 1440 of L1-1. -/
theorem test_gold_10 :
    ((nextOf (exec (.gold 10) (prnLoad 1 ⟨2, 6⟩ .reset))).map fun s =>
      (s.shift, s.chipcnt, s.u0.value, s.u1.value, s.u2.value)) = some (0o1440, 10, 0x238, 0x0B4, 0x0B4) := by decide
/-- V-GOLD-3. -/
theorem test_gold_unconfigured :
    ((nextOf (exec (.gold 0) .reset)).map fun s => (s.stream, statusWord s)) = some ([], 3) := by decide
/-- L1-10: the three unit sequences and their XOR, by the source's own operations. -/
theorem test_source_generate :
    generate 10 [10, 9, 8, 6, 3, 2] 2 1023 10 =
      [true, true, false, false, true, false, true, true, false, true] := by decide
/-- The ROM, where the source fixes it and at its ends (R101). -/
theorem test_tap_rom :
    tapRom referenceParams 1 = some ⟨2, 6⟩ ∧ tapRom referenceParams 37 = some ⟨4, 10⟩ ∧
      tapRom referenceParams 0 = none ∧ tapRom referenceParams 38 = none := by decide

/-! ## NOP and CLEAR -/

/-- V-NOP-1. -/
theorem test_nop : nextOf (exec .nop (withU0 (refUnit 5))) = some (withU0 (refUnit 5)) := by decide
/-- V-CLR-1. -/
theorem test_clear_all :
    ((nextOf (exec (.clear 7) { State.reset with shift := 0x320, chipcnt := 10, errcode := 4 })).map readout) =
      some [0, 0, 0, 0, 0x000A2501, 0, 0, 0, 0, 0, 0] := by decide
/-- V-CLR-2: one register only. -/
theorem test_clear_err :
    ((nextOf (exec (.clear 2) { State.reset with shift := 0x320, chipcnt := 10, errcode := 3 })).map fun s =>
      (s.shift, s.chipcnt, s.errcode)) = some (0x320, 10, 0) := by decide

/-! ## Bus and reset -/

/-- V-BUS-1. -/
theorem test_read_cmd_refused :
    ((nextOf (step (serving (.read 0 .word) .reset))).map fun s => (s.reads, statusWord s)) = some ([0], 5) := by decide
/-- V-BUS-2. -/
theorem test_write_status_refused :
    ((nextOf (step (serving (.write 4 .word 1) .reset))).map statusWord) = some 5 := by decide
/-- V-BUS-3. -/
theorem test_half_write_refused :
    ((nextOf (step (serving (.write 0 .half 0) .reset))).map statusWord) = some 5 := by decide
/-- V-BUS-4, V-BUS-5. -/
theorem test_read_misaligned_or_reserved :
    ((nextOf (step (serving (.read 2 .word) .reset))).map statusWord) = some 5 ∧
      ((nextOf (step (serving (.read 0x18 .word) .reset))).map statusWord) = some 5 := by decide
/-- V-BUS-6. -/
theorem test_read_info :
    ((nextOf (step (serving (.read 0x14 .word) .reset))).map fun s => (s.reads, statusWord s)) =
      some ([0x000A2501], 0) := by decide
/-- R66: an illegal word records ILLEGAL and changes nothing else. -/
theorem test_illegal_word :
    nextOf (step (serving (.write 0 .word 0x70000000) .reset)) = some { State.reset with errcode := 1 } := by decide
/-- R153 with a command that emits nothing: the state is the reset state, one draw is spent. -/
theorem test_reset_during_config :
    nextOf (step { withU0 (refUnit 5) with bus := [.resetDuring 0x1008114A [.read 4 .word]], shift := 7 }) =
      some { State.reset with draws := 1 } := by decide
/-- R153 with a word that is no command (log 6): the reset state, the stream kept, one draw spent. -/
theorem test_reset_during_illegal_word :
    nextOf (step { withU0 (refUnit 5) with bus := [.resetDuring 0x70000000 []], stream := [⟨.gold, true⟩] }) =
      some { State.reset with stream := [⟨.gold, true⟩], draws := 1 } := by decide
/-- V-RST-1: reset leaves the stream entries. -/
theorem test_reset_keeps_stream :
    nextOf (step { withU0 (refUnit 5) with bus := [.reset], stream := [⟨.gold, true⟩], errcode := 3 }) =
      some { State.reset with stream := [⟨.gold, true⟩] } := by decide
theorem test_idle : nextOf (step (withU0 (refUnit 5))) = some (withU0 (refUnit 5)) := by decide
theorem test_fetch_word :
    nextOf (step (State.reset.withFetchWord 32 0x40000001)) = nextOf (exec (.prn 1) .reset) := by decide
/-- R28: the tag of CHIP_OUT. -/
theorem test_chip_out : (⟨.gold, true⟩ : StreamEntry).chipOut = { valid := true, data := true, tag := 3 } := by decide

/-! ## Witnesses: a state and operands that meet each statement's hypotheses, clause by clause -/

/-- The reset state after PRN 1. -/
def goldState : State := prnLoad 1 ⟨2, 6⟩ .reset

/-- U2 of width 1 with its one tap. -/
def oneBit : State := { State.reset with u2 := { valid := true, width := 1, taps := 1, otap := 1, value := 1 } }

theorem witness_DecodeOfEncodeIsTheCommand : Instr.wellFormed (.gold 65535) = true := by decide
theorem witness_DecodedWordReencodes : decode 0x500003FF = .ok (.gold 1023) := by decide
theorem witness_OpcodeRowsDecideTheCommand_selected :
    (⟨"CLEAR", 0x60000000, 0xFFFFFFF8⟩ : OpcodeRow) ∈ opcodeTable ∧ 0x60000007#32 &&& 0xFFFFFFF8 = 0x60000000 := by
  decide
theorem witness_OpcodeRowsDecideTheCommand_none : ∀ r ∈ opcodeTable, 0x60000008#32 &&& r.mask ≠ r.pattern := by decide
/-- Each opcode from 0 to 7 and 15, with each clause's condition, occurs. -/
theorem witness_ExecuteFollowsTheOpcodeCases :
    (0x00000000#32).extractLsb' 28 4 = 0 ∧ (0x1C000000#32).extractLsb' 26 2 = 3 ∧
      (0x18000000#32).extractLsb' 26 2 = unitCode .u2 ∧ (0x22000000#32).extractLsb' 16 10 ≠ 0 ∧
      (0x38000000#32).extractLsb' 16 10 = 0 ∧ ((0x4FFFFFFF#32).extractLsb' 28 4).toNat = 4 ∧
      ((0x50000000#32).extractLsb' 28 4).toNat = 5 ∧ ((0x60000000#32).extractLsb' 28 4).toNat = 6 ∧
      7 ≤ ((0x70000000#32).extractLsb' 28 4).toNat ∧ 7 ≤ ((0xF0000000#32).extractLsb' 28 4).toNat := by decide
theorem witness_ByteViewIsLittleEndian :
    decode 0x40000001 = .ok (.prn 1) ∧ decode 0x70000000 = .error .reservedOpcode := by decide
theorem witness_PseudoCommandsExpand : ∀ p ∈ [3, 10, 1, 16], 1 ≤ p ∧ p ≤ 16 := by decide
theorem witness_StepRunsTheDecodedCommand :
    (serving (.write 0 .word 0x40000001) .reset).bus = [.transaction (.write 0 .word 0x40000001)] ∧
      decode 0x40000001 = .ok (.prn 1) := by decide
theorem witness_FetchWordRunsNext : decodeTableWord 32 0x6FFFFFF8 = none ∧ decodeTableWord 32 0x60000007 = some (.clear 7) := by
  decide
theorem witness_IdleCoreKeepsItsState : State.reset.bus = [] := by decide
theorem witness_AdmittedReadReturnsTheRegister :
    (serving (.read 0x34 .word) goldState).bus = [.transaction (.read 0x34 .word)] := by decide
theorem witness_RefusedAccessRecordsBus :
    ¬ (AccessSize.word = .word ∧ (0x38 : BitVec 6) ∈ [0x04#6, 0x08, 0x0C, 0x10, 0x14, 0x20, 0x24, 0x28, 0x2C, 0x30, 0x34]) ∧
      ¬ (AccessSize.byte = .word ∧ (0x04 : BitVec 6) ∈ [0x04#6]) ∧ ¬ (AccessSize.half = .word ∧ (0 : BitVec 6) = 0) := by
  decide
/-- Both ends of the window and the first address above it. -/
theorem witness_OnlyTheWindowReachesTheCore :
    (Config.base ≤ Config.base + 63 ∧ Config.base + 63 ≤ Config.base + 63) ∧ Config.base + 63 < Config.base + 64 := by
  omega
theorem witness_UcfgReadBackChangesNothing : Inv goldState ∧ (goldState.unit .u2).valid = true := by decide
theorem witness_ReadoutDeterminesTheCore : readout goldState = readout { goldState with draws := 1 } := by decide
theorem witness_AdmittedReadsAreIdempotent :
    ({ goldState with bus := [.transaction (.read 4 .word), .transaction (.read 4 .word)] } : State).bus =
      [.transaction (.read 4 .word), .transaction (.read 4 .word)] := by decide
theorem witness_EveryErrorRecordsTheFirstOnly_illegal : (∃ e, decode 0xFFFFFFFF = .error e) := ⟨.reservedOpcode, by decide⟩
theorem witness_EveryErrorRecordsTheFirstOnly_checks :
    ¬ LegalConfig State.reset.params 11 0x204 10 ∧ (State.reset.unit .u1).valid = false ∧
      ¬ (1 ≤ (0 : BitVec 8).toNat ∧ (0 : BitVec 8).toNat ≤ 37) ∧ ¬ (1 ≤ (38 : BitVec 8).toNat ∧ (38 : BitVec 8).toNat ≤ 37) ∧
      ¬ (AccessSize.word = .word ∧ (4 : BitVec 6) = 0) := by decide
theorem witness_OnlyClearErrOrResetEmptiesTheRecord :
    nextOf (step { State.reset with errcode := 3, bus := [cmdWrite 0x60000002] }) = some .reset := by decide
theorem witness_NopChangesNothing : (0x00000001#32).extractLsb' 28 4 = 0 ∧ (0x00000001#32).extractLsb' 0 28 ≠ 0 := by decide
theorem witness_ClearClearsTheSelectedRegisters :
    nextOf (exec (.clear 2) { State.reset with errcode := 5 }) = some .reset ∧
      (0x60000008#32).extractLsb' 28 4 = 6 ∧ (0x60000008#32).extractLsb' 3 25 ≠ 0 := by decide
theorem witness_ConfigSetsTheUnitExactlyWhenLegal :
    LegalConfig referenceParams 1 1 1 ∧ LegalConfig referenceParams 10 0x204 10 ∧ ¬ LegalConfig referenceParams 0 1 0 ∧
      ¬ LegalConfig referenceParams 11 1 1 ∧ ¬ LegalConfig referenceParams 9 0x204 9 ∧
      ¬ LegalConfig referenceParams 10 0x204 11 := by decide
theorem witness_SeedLoadsTheTruncatedValue :
    Inv goldState ∧ goldState.u0.valid = true ∧ goldState.u1.valid = true ∧ goldState.u2.valid = true :=
  ⟨by decide, by decide, by decide, by decide⟩
theorem witness_UnreadyUnitsRaiseUnconf : (State.reset.unit .u2).valid = false := by decide
theorem witness_EngineStepFollowsTheFormulas : Inv oneBit ∧ (oneBit.unit .u2).valid = true := by decide
theorem witness_StepEmitsTheSourceBits : Inv goldState ∧ (goldState.unit .u1).valid = true := by decide
theorem witness_StepZeroAndStepOne : (goldState.unit .u0).valid = true := by decide
theorem witness_EngineStepProperties :
    UnitLegal 10 goldState.u1 ∧ (withU0 (refUnit 0)).u0.valid = true ∧ (withU0 (refUnit 0)).u0.value = 0 ∧
      Inv oneBit ∧ (oneBit.unit .u2).width = 1 :=
  ⟨by decide, by decide, by decide, by decide, by decide⟩
/-- The linearity clause: the least width and width 10, at the largest value each allows. -/
theorem witness_EngineStepProperties_linear :
    (1 ≤ oneBit.u2.width.toNat ∧ (1 : BitVec 16).toNat < 2 ^ oneBit.u2.width.toNat) ∧
      (1 ≤ goldState.u1.width.toNat ∧ (0x3FF : BitVec 16).toNat < 2 ^ goldState.u1.width.toNat ∧
        (0x155 : BitVec 16).toNat < 2 ^ goldState.u1.width.toNat) := by decide
theorem witness_GenEmitsTheSourceSequence :
    ParamsLegal referenceParams ∧ [3, 10].Nodup ∧ (∀ p ∈ [3, 10], 1 ≤ p ∧ p ≤ 16) ∧
      LegalConfig referenceParams 10 (tapMask [3, 10]) 10 ∧ ¬ LegalConfig referenceParams 9 (tapMask [3, 10]) 9 ∧
      State.reset.u0.valid = false ∧ State.reset.errcode = 0 := by decide
theorem witness_RegistersHavePeriod1023 :
    goldState.u0.width = 10 ∧ goldState.u0.taps = 0x204 ∧ goldState.u1.taps = 0x3A6 ∧ goldState.u1.value = 0x3FF := by
  decide
theorem witness_EngineCommandsFrame :
    ∃ t, exec (configOn .u1 1 1 1) State.reset = .next t ∧ exec (seedOn .u0 5) goldState = .next (seedUnit .u0 5 goldState) ∧
      exec (stepOn .u2 3) goldState = .next (stepCommand .u2 3 goldState) := ⟨_, rfl, rfl, rfl⟩
theorem witness_PrnLoadsTheValidIdentifiers :
    (1 ≤ (1 : BitVec 8).toNat ∧ (37 : BitVec 8).toNat ≤ 37) ∧ ¬ (1 ≤ (38 : BitVec 8).toNat ∧ (38 : BitVec 8).toNat ≤ 37) := by
  decide
theorem witness_InvalidPrnInvalidatesTheUnits : ¬ (1 ≤ (255 : BitVec 8).toNat ∧ (255 : BitVec 8).toNat ≤ 37) := by decide
theorem witness_PrnOneSelectsTapsTwoAndSix : ParamsLegal State.reset.params := by decide
theorem witness_ReferenceTableIsLoaded : State.reset.params = referenceParams := by decide
theorem witness_GoldChipIsTheXorOfTheOutputs :
    goldState.u0.valid = true ∧ goldState.u1.valid = true ∧ goldState.u2.valid = true := by decide
theorem witness_GoldEmitsTheCombinedChips :
    Inv { goldState with chipcnt := 1022 } ∧ goldState.u0.valid = true ∧ goldState.u1.valid = true ∧
      goldState.u2.valid = true :=
  ⟨by decide, by decide, by decide, by decide⟩
theorem witness_GetcodeEmitsTheSourceCode :
    ParamsLegal State.reset.params ∧ (1 ≤ (37 : BitVec 8).toNat ∧ (37 : BitVec 8).toNat ≤ 37) ∧
      ¬ (1 ≤ (0 : BitVec 8).toNat ∧ (0 : BitVec 8).toNat ≤ 37) := by decide
theorem witness_VariableUnitsAgreeAfterPrn :
    ∃ t, execAll [.prn 1, .gold 3, .nop, .config0 1 1 1, .seed0 1, .step0 1, .clear 7] State.reset = .next t := ⟨_, rfl⟩
theorem witness_ShiftHoldsTheFirstTenChips : ParamsLegal State.reset.params ∧ 1 ≤ (1 : BitVec 8).toNat := by decide
theorem witness_Identifiers34And37ShareTheirCode : ParamsLegal goldState.params := by decide
theorem witness_GoldCodeRepeatsAfter1023 : 1 ≤ (33 : BitVec 8).toNat ∧ (33 : BitVec 8).toNat ≤ 37 := by decide
theorem witness_ReferenceCodesAreBalanced : (tapRom referenceParams 1).isSome ∧ (tapRom referenceParams 37).isSome := by decide
theorem witness_ShiftHoldsTheLastTenBits : (goldState.unit .u1).valid = true ∧ 10 ≤ 10 := by decide
theorem witness_ChipCounterCountsGoldChips :
    ({ goldState with chipcnt := 1022 } : State).chipcnt.toNat ≤ 1022 ∧ (4 : BitVec 3).getLsbD 2 = true := by decide
theorem witness_PrnselIsInformational :
    1 ≤ (37 : BitVec 8).toNat ∧ ¬ (1 ≤ (38 : BitVec 8).toNat ∧ (38 : BitVec 8).toNat ≤ 37) ∧
      nextOf (exec (.gold 0) goldState) = some goldState := by decide
theorem witness_ResetRestoresTheResetValues : ({ goldState with bus := [.reset] } : State).bus = [.reset] := by decide
theorem witness_ResetDuringACommandLeavesAPrefix :
    ({ goldState with bus := [.resetDuring 0x500003FF []] } : State).bus = [.resetDuring 0x500003FF []] ∧
      decode 0x500003FF = .ok (.gold 1023) := by decide
theorem witness_ResetDuringACommandLeavesAPrefix_illegal :
    ({ goldState with bus := [.resetDuring 0x70000000 []] } : State).bus = [.resetDuring 0x70000000 []] ∧
      decode 0x70000000 = .error .reservedOpcode := by decide
/-- Each clause's condition at its boundary: widths 1, 10 and 0, 11; identifiers 1, 37 and 0, 38. -/
theorem witness_AfterResetUnitCommandsRaiseUnconf :
    (LegalConfig referenceParams 1 1 1 ∧ LegalConfig referenceParams 10 0x204 10) ∧
      (¬ LegalConfig referenceParams 0 1 0 ∧ ¬ LegalConfig referenceParams 11 1 1) ∧
      (1 ≤ (1 : BitVec 8).toNat ∧ (37 : BitVec 8).toNat ≤ 37) ∧
      ¬ (1 ≤ (0 : BitVec 8).toNat ∧ (0 : BitVec 8).toNat ≤ 37) ∧
      ¬ (1 ≤ (38 : BitVec 8).toNat ∧ (38 : BitVec 8).toNat ≤ 37) := by decide
theorem witness_StepKeepsTheInvariant_reset : ParamsLegal { referenceParams with wmax := 16 } := by decide
theorem witness_StepKeepsTheInvariant :
    Inv { goldState with bus := [cmdWrite 0x50000001] } ∧
      (nextOf (step { goldState with bus := [cmdWrite 0x50000001] })).isSome := by decide
theorem witness_StepKeepsTheParameters : nextOf (step goldState) = some goldState := by decide
theorem witness_StepOnlyExtendsTheHistory :
    (nextOf (step (serving (.read 4 .word) goldState))).map (·.reads) = some [0x70] := by decide
theorem witness_BusWaitIsBounded : (∀ u n, Instr.nop ≠ stepOn u n) ∧ ∀ n, Instr.nop ≠ .gold n := by
  refine ⟨fun u n => ?_, fun n => ?_⟩
  · cases u <;> simp [stepOn]
  · simp

end Sys2Proof.Machine.Tests
end

section
/-! PROOF. Every operation of the machine keeps the invariant `Inv` (10_state.md R22), from the unit's rules up to one
step. -/

namespace Sys2Proof.Machine

variable {s : State}

/-! ## Units and records -/

theorem Inv.unitLegal (h : Inv s) (u : UnitId) : UnitLegal s.params.wmax (s.unit u) := by
  obtain ⟨_, h0, h1, h2, _⟩ := h
  cases u
  · exact h0
  · exact h1
  · exact h2

theorem Inv.wmax_le (h : Inv s) : s.params.wmax.toNat ≤ 16 := by
  obtain ⟨⟨_, hw, _⟩, _⟩ := h
  exact hw

/-- A unit may be replaced by any legal one. -/
theorem setUnit_keeps_inv (h : Inv s) {u : UnitId} {x : LfsrUnit} (hx : UnitLegal s.params.wmax x) :
    Inv (s.setUnit u x) := by
  obtain ⟨hp, h0, h1, h2, hrest⟩ := h
  cases u
  · exact ⟨hp, hx, h1, h2, hrest⟩
  · exact ⟨hp, h0, hx, h2, hrest⟩
  · exact ⟨hp, h0, h1, hx, hrest⟩

theorem record_keeps_inv (h : Inv s) (e : ErrCode) : Inv (s.record e) := by
  obtain ⟨hp, h0, h1, h2, hc, hs, he⟩ := h
  exact ⟨hp, h0, h1, h2, hc, hs, recorded_le_five e he⟩

/-- A command behind `require` keeps the invariant if its effect on a configured unit does. -/
theorem requireUnit_keeps_inv (h : Inv s) {u : UnitId} {effect : State}
    (heff : (s.unit u).valid = true → Inv effect) : Inv (requireUnit u effect s) := by
  obtain ⟨hv, heq⟩ | ⟨_, heq⟩ := requireUnit_cases s u effect <;> rw [heq]
  · exact heff hv
  · exact record_keeps_inv h .unconf

/-! ## Commands -/

theorem configUnit_keeps_inv (h : Inv s) (u : UnitId) (taps : BitVec 16) (width otap : BitVec 5) :
    Inv (configUnit u taps width otap s) := by
  by_cases hc : LegalConfig s.params width taps otap
  · rw [configUnit_legal s u hc]
    exact setUnit_keeps_inv h (UnitLegal.configured h.wmax_le hc _)
  · rw [configUnit_illegal s u hc]
    exact record_keeps_inv h .param

theorem seedUnit_keeps_inv (h : Inv s) (u : UnitId) (v : BitVec 16) : Inv (seedUnit u v s) :=
  requireUnit_keeps_inv h fun hv => setUnit_keeps_inv h ((h.unitLegal u).seeded h.wmax_le hv v)

theorem stepCommand_keeps_inv (h : Inv s) (u : UnitId) (n : Nat) : Inv (stepCommand u n s) := by
  refine requireUnit_keeps_inv h fun hv => ?_
  rw [stepRun_eq]
  exact setUnit_keeps_inv h ((h.unitLegal u).afterSteps hv n)

theorem goldRun_keeps_inv (h : Inv s) (h0 : s.u0.valid = true) (h1 : s.u1.valid = true) (h2 : s.u2.valid = true)
    (n : Nat) : Inv (goldRun n s) := by
  obtain ⟨hp, hl0, hl1, hl2, hc, hs, he⟩ := h
  have hcount : (chipsCounted n s.chipcnt).toNat ≤ 1022 := by
    rw [chipsCounted_toNat hc]
    omega
  rw [goldRun_eq]
  exact ⟨hp, hl0.afterSteps h0 n, hl1.afterSteps h1 n, hl2.afterSteps h2 n, hcount, hs, he⟩

theorem goldCommand_keeps_inv (h : Inv s) (n : Nat) : Inv (goldCommand n s) :=
  requireUnit_keeps_inv h fun h0 => requireUnit_keeps_inv h fun h1 => requireUnit_keeps_inv h fun h2 =>
    goldRun_keeps_inv h h0 h1 h2 n

theorem tapPairInRange_iff (t : TapPair) :
    tapPairInRange t = true ↔ (1 ≤ t.s1.toNat ∧ t.s1.toNat ≤ 10) ∧ 1 ≤ t.s2.toNat ∧ t.s2.toNat ≤ 10 := by
  simp [tapPairInRange]

theorem prnLoad_keeps_inv (h : Inv s) {id : BitVec 8} (hid : id.toNat ≤ 37) {t : TapPair}
    (ht : tapPairInRange t = true) : Inv (prnLoad id t s) := by
  obtain ⟨hp, _, _, _, _, _, he⟩ := h
  obtain ⟨⟨hlo1, hhi1⟩, hlo2, hhi2⟩ := (tapPairInRange_iff t).1 ht
  have hw : 10 ≤ s.params.wmax.toNat := hp.1
  exact ⟨hp, .goldReference hw, .goldVariable hw hlo1 hhi1, .goldVariable hw hlo2 hhi2, Nat.zero_le _, hid, he⟩

theorem prnInvalid_keeps_inv (h : Inv s) : Inv (prnInvalid s) := by
  obtain ⟨hp, _, _, _, hc, _, he⟩ := record_keeps_inv h .prn
  exact ⟨hp, .unconfigured, .unconfigured, .unconfigured, hc, Nat.zero_le _, he⟩

theorem prnCommand_keeps_inv (h : Inv s) (id : BitVec 8) : Inv (prnCommand id s) := by
  by_cases hid : 1 ≤ id.toNat ∧ id.toNat ≤ 37
  · rw [prnCommand_valid s hid]
    exact prnLoad_keeps_inv h hid.2 (ParamsLegal.entry h.1 (by omega))
  · rw [prnCommand_invalid s hid]
    exact prnInvalid_keeps_inv h

theorem clearRegs_keeps_inv (h : Inv s) (m : BitVec 3) : Inv (clearRegs m s) := by
  obtain ⟨hp, h0, h1, h2, hc, hs, he⟩ := h
  refine ⟨hp, h0, h1, h2, ?_, hs, ?_⟩
  · show (if m.getLsbD 2 then 0 else s.chipcnt).toNat ≤ 1022
    split
    · exact Nat.zero_le _
    · exact hc
  · show (if m.getLsbD 1 then 0 else s.errcode).toNat ≤ 5
    split
    · exact Nat.zero_le _
    · exact he

/-- Every command completes, in a state that meets the invariant where it began in one. -/
theorem exec_keeps_inv (h : Inv s) (i : Instr) : ∃ t, exec i s = .next t ∧ Inv t := by
  obtain rfl | ⟨u, taps, width, otap, rfl⟩ | ⟨u, v, rfl⟩ | ⟨u, n, rfl⟩ | ⟨id, rfl⟩ | ⟨n, rfl⟩ | ⟨m, rfl⟩ :=
    Instr.shapes i
  · exact ⟨_, exec_nop s, h⟩
  · exact ⟨_, exec_configOn s u taps width otap, configUnit_keeps_inv h u taps width otap⟩
  · exact ⟨_, exec_seedOn s u v, seedUnit_keeps_inv h u v⟩
  · exact ⟨_, exec_stepOn s u n, stepCommand_keeps_inv h u n⟩
  · exact ⟨_, exec_prn s id, prnCommand_keeps_inv h id⟩
  · exact ⟨_, exec_gold s n, goldCommand_keeps_inv h n⟩
  · exact ⟨_, exec_clear s m, clearRegs_keeps_inv h m⟩

/-! ## Reset -/

/-- RESET meets the invariant from any state, because the parameters alone survive it (70_reset_and_hazards.md R150). -/
theorem applyReset_inv (hp : ParamsLegal s.params) : Inv s.applyReset :=
  ⟨hp, .unconfigured, .unconfigured, .unconfigured, Nat.zero_le _, Nat.zero_le _, Nat.zero_le _⟩

theorem runPrefix_params (i : Instr) (k : Nat) (s : State) : (runPrefix i k s).params = s.params := by
  have hstep (u : UnitId) : (stepRun u k s).params = s.params := by rw [stepRun_eq, State.setUnit_params]
  have hgold : (goldRun k s).params = s.params := by rw [goldRun_eq]
  cases i with
  | step0 n => exact hstep .u0
  | step1 n => exact hstep .u1
  | step2 n => exact hstep .u2
  | gold n => exact hgold
  | nop | config0 | config1 | config2 | seed0 | seed1 | seed2 | prn | clear => rfl

theorem abandon_inv (hp : ParamsLegal s.params) (w : Word) : Inv (abandon w s) := by
  cases hw : decode w with
  | ok i =>
    rw [abandon_ok s hw]
    exact applyReset_inv (s := runPrefix i _ s) (by rwa [runPrefix_params])
  | error e =>
    rw [abandon_error s hw]
    exact applyReset_inv hp

/-! ## Bus events and one step -/

theorem execute_keeps_inv (h : Inv s) (w : Word) : ∃ t, execute w s = .next t ∧ Inv t := by
  cases hw : decode w with
  | ok i =>
    rw [execute_ok s hw]
    exact exec_keeps_inv h i
  | error e => exact ⟨_, execute_error s hw, record_keeps_inv h .illegal⟩

theorem serveWrite_keeps_inv (h : Inv s) (off : BitVec 6) (size : AccessSize) (v : Word) :
    ∃ t, serveWrite off size v s = .next t ∧ Inv t := by
  by_cases hcmd : size = .word ∧ off = 0
  · obtain ⟨rfl, rfl⟩ := hcmd
    rw [serveWrite_cmd]
    exact execute_keeps_inv h v
  · exact ⟨_, serveWrite_refused s hcmd v, record_keeps_inv h .bus⟩

theorem serveRead_keeps_inv (h : Inv s) (off : BitVec 6) (size : AccessSize) : Inv (serveRead off size s) := by
  cases hr : admittedRead off size with
  | some r =>
    rw [serveRead_admitted s hr]
    exact h
  | none =>
    rw [serveRead_refused s hr]
    exact record_keeps_inv h .bus

theorem serveEvent_keeps_inv (h : Inv s) (e : BusEvent) : ∃ t, serveEvent e s = .next t ∧ Inv t := by
  cases e with
  | transaction tr =>
    cases tr with
    | write off size v => exact serveWrite_keeps_inv h off size v
    | read off size => exact ⟨_, rfl, serveRead_keeps_inv h off size⟩
  | reset => exact ⟨_, rfl, applyReset_inv h.1⟩
  | resetDuring w waiting => exact ⟨_, rfl, abandon_inv h.1 w⟩

theorem step_keeps_inv (h : Inv s) : ∃ t, step s = .next t ∧ Inv t := by
  cases hb : s.bus with
  | nil => exact ⟨s, step_idle s hb, h⟩
  | cons e rest =>
    rw [step_event s hb]
    exact serveEvent_keeps_inv (s := { s with bus := rest }) h e

/-- Settles O52: each operation keeps the invariant (`step_keeps_inv`), and RESET meets it for any legal parameters. -/
theorem stepKeepsTheInvariant : Obligations.StepKeepsTheInvariant := by
  unfold Obligations.StepKeepsTheInvariant
  refine ⟨fun p hp => applyReset_inv (s := { State.reset with params := p }) hp, fun s t hinv hstep => ?_⟩
  obtain ⟨t', ht', hinv'⟩ := step_keeps_inv hinv
  rw [ht'] at hstep
  cases hstep
  exact hinv'

end Sys2Proof.Machine
end

section
/-! PROOF. CHIPCNT and PRNSEL under the commands (10_state.md R25, R26), and what an admitted read returns
(10_state.md R30, R33; 20_memory.md R43). -/

namespace Sys2Proof.Machine

variable {s : State}

/-! ## CHIPCNT -/

/-- STEP does not count, whether it runs or raises UNCONF. -/
theorem stepCommand_chipcnt (s : State) (u : UnitId) (n : Nat) : (stepCommand u n s).chipcnt = s.chipcnt := by
  obtain ⟨_, heq⟩ | ⟨_, heq⟩ := requireUnit_cases s u (stepRun u n s) <;> rw [stepCommand, heq]
  · rw [stepRun_eq, State.setUnit_chipcnt]
  · exact State.record_chipcnt s .unconf

theorem goldCommand_chipcnt (h0 : s.u0.valid = true) (h1 : s.u1.valid = true) (h2 : s.u2.valid = true) (n : Nat) :
    (goldCommand n s).chipcnt = chipsCounted n s.chipcnt := by
  rw [goldCommand_ready h0 h1 h2, goldRun_eq]

theorem clearRegs_chipcnt {m : BitVec 3} (hm : m.getLsbD 2 = true) (s : State) : (clearRegs m s).chipcnt = 0 :=
  if_pos hm

/-- Settles O45: GOLD's loop iterates the count modulo 1023, STEP's never counts, and the three clears write 0. -/
theorem chipCounterCountsGoldChips : Obligations.ChipCounterCountsGoldChips := by
  unfold Obligations.ChipCounterCountsGoldChips
  intro s hc
  refine ⟨fun n h0 h1 h2 => ?_, fun u n t ht => ?_, fun id hlo hhi => ?_, fun m hm => ?_, ?_⟩
  · have hcount : (goldCommand n s).chipcnt.toNat = (s.chipcnt.toNat + n) % 1023 := by
      rw [goldCommand_chipcnt h0 h1 h2, chipsCounted_toNat hc]
    exact ⟨_, exec_gold s n, hcount, by omega⟩
  · rw [exec_stepOn] at ht
    cases ht
    exact stepCommand_chipcnt s u n
  · exact ⟨_, exec_prn s id, by rw [prnCommand_valid s ⟨hlo, hhi⟩]; rfl⟩
  · exact ⟨_, exec_clear s m, clearRegs_chipcnt hm s⟩
  · exact ⟨_, rfl, State.applyReset_chipcnt s⟩

/-! ## PRNSEL: a command other than PRN commutes with writing it -/

theorem requireUnit_withPrnsel (u : UnitId) (effect s : State) (p : BitVec 8) :
    requireUnit u { effect with prnsel := p } { s with prnsel := p } =
      { requireUnit u effect s with prnsel := p } := by
  obtain ⟨hv, heq⟩ | ⟨hv, heq⟩ := requireUnit_cases s u effect <;> rw [heq]
  · exact requireUnit_valid _ u (by cases u <;> exact hv)
  · exact requireUnit_invalid _ u (by cases u <;> exact hv)

theorem configUnit_withPrnsel (u : UnitId) (taps : BitVec 16) (width otap : BitVec 5) (s : State) (p : BitVec 8) :
    configUnit u taps width otap { s with prnsel := p } = { configUnit u taps width otap s with prnsel := p } := by
  by_cases hc : LegalConfig s.params width taps otap
  · rw [configUnit_legal s u hc, configUnit_legal { s with prnsel := p } u hc]
    cases u <;> rfl
  · rw [configUnit_illegal s u hc, configUnit_illegal { s with prnsel := p } u hc]
    rfl

theorem seedUnit_withPrnsel (u : UnitId) (v : BitVec 16) (s : State) (p : BitVec 8) :
    seedUnit u v { s with prnsel := p } = { seedUnit u v s with prnsel := p } := by
  rw [seedUnit, seedUnit, ← requireUnit_withPrnsel]
  cases u <;> rfl

theorem stepCommand_withPrnsel (u : UnitId) (n : Nat) (s : State) (p : BitVec 8) :
    stepCommand u n { s with prnsel := p } = { stepCommand u n s with prnsel := p } := by
  rw [stepCommand, stepCommand, ← requireUnit_withPrnsel, stepRun_eq, stepRun_eq]
  cases u <;> rfl

theorem goldCommand_withPrnsel (n : Nat) (s : State) (p : BitVec 8) :
    goldCommand n { s with prnsel := p } = { goldCommand n s with prnsel := p } := by
  have hrun : goldRun n { s with prnsel := p } = { goldRun n s with prnsel := p } := by
    rw [goldRun_eq, goldRun_eq]
  simp only [goldCommand, hrun, requireUnit_withPrnsel]

/-- A command other than PRN neither reads nor writes PRNSEL: its next state with another PRNSEL is the same but for
that PRNSEL. -/
theorem exec_withPrnsel {i : Instr} (hi : ∀ id, i ≠ .prn id) (s : State) (p : BitVec 8) :
    ∃ t, exec i s = .next t ∧ exec i { s with prnsel := p } = .next { t with prnsel := p } := by
  obtain rfl | ⟨u, taps, width, otap, rfl⟩ | ⟨u, v, rfl⟩ | ⟨u, n, rfl⟩ | ⟨id, rfl⟩ | ⟨n, rfl⟩ | ⟨m, rfl⟩ :=
    Instr.shapes i
  · exact ⟨s, exec_nop s, exec_nop _⟩
  · exact ⟨_, exec_configOn s u taps width otap, by rw [exec_configOn, configUnit_withPrnsel]⟩
  · exact ⟨_, exec_seedOn s u v, by rw [exec_seedOn, seedUnit_withPrnsel]⟩
  · exact ⟨_, exec_stepOn s u n, by rw [exec_stepOn, stepCommand_withPrnsel]⟩
  · exact absurd rfl (hi id)
  · exact ⟨_, exec_gold s n, by rw [exec_gold, goldCommand_withPrnsel]⟩
  · exact ⟨_, exec_clear s m, exec_clear _ m⟩

/-- Writing PRNSEL's own value before such a command shows that it is kept. -/
theorem exec_keeps_prnsel {i : Instr} (hi : ∀ id, i ≠ .prn id) {t : State} (ht : exec i s = .next t) :
    t.prnsel = s.prnsel := by
  obtain ⟨t', ht', hkept⟩ := exec_withPrnsel hi s s.prnsel
  rw [show ({ s with prnsel := s.prnsel } : State) = s from rfl, ht] at hkept
  cases hkept
  rfl

/-- PRN overwrites PRNSEL without reading it. -/
theorem prnCommand_withPrnsel (id : BitVec 8) (s : State) (p : BitVec 8) :
    prnCommand id { s with prnsel := p } = prnCommand id s := by
  by_cases hid : 1 ≤ id.toNat ∧ id.toNat ≤ 37
  · rw [prnCommand_valid _ hid, prnCommand_valid s hid]
    rfl
  · rw [prnCommand_invalid _ hid, prnCommand_invalid s hid]
    rfl

/-- No command's effect beyond PRNSEL depends on PRNSEL. -/
theorem exec_ignores_prnsel (i : Instr) (s : State) (p : BitVec 8) :
    ∃ t q, exec i s = .next t ∧ exec i { s with prnsel := p } = .next { t with prnsel := q } := by
  by_cases hi : ∃ id, i = .prn id
  · obtain ⟨id, rfl⟩ := hi
    exact ⟨_, (prnCommand id s).prnsel, exec_prn s id, by rw [exec_prn, prnCommand_withPrnsel]⟩
  · obtain ⟨t, ht, hp⟩ := exec_withPrnsel (not_exists.1 hi) s p
    exact ⟨t, p, ht, hp⟩

/-- Settles O46: only PRN and RESET write PRNSEL, and every command commutes with a change of it. -/
theorem prnselIsInformational : Obligations.PrnselIsInformational := by
  unfold Obligations.PrnselIsInformational
  refine ⟨fun s id hlo hhi => ?_, fun s id hid => ?_, fun s => ?_, fun i s t hi ht => exec_keeps_prnsel hi ht,
    exec_ignores_prnsel⟩
  · exact ⟨_, exec_prn s id, by rw [prnCommand_valid s ⟨hlo, hhi⟩]; rfl⟩
  · exact ⟨_, exec_prn s id, by rw [prnCommand_invalid s hid]; rfl⟩
  · exact ⟨_, rfl, State.applyReset_prnsel s⟩

/-! ## Admitted reads: the registers as numbers -/

theorem statusWord_eq_ofNat (s : State) :
    statusWord s = BitVec.ofNat 32
      (s.errcode.toNat + 2 ^ 4 * s.u0.valid.toNat + 2 ^ 5 * s.u1.valid.toNat + 2 ^ 6 * s.u2.valid.toNat) := by
  have h0 := s.u0.valid.toNat_lt
  have h1 := s.u1.valid.toNat_lt
  have h2 := s.u2.valid.toNat_lt
  apply BitVec.eq_of_toNat_eq
  simp only [statusWord, toNat_append_add, BitVec.toNat_ofBool, BitVec.toNat_ofNat]
  omega

theorem infoWord_eq_ofNat (p : Params) : infoWord p = BitVec.ofNat 32 (1 + 2 ^ 8 * 37 + 2 ^ 16 * p.wmax.toNat) := by
  apply BitVec.eq_of_toNat_eq
  simp only [infoWord, toNat_append_add, BitVec.toNat_ofNat, Config.nprn, Config.interfaceVersion]
  omega

theorem ucfgWord_eq_ofNat (x : LfsrUnit) :
    ucfgWord x = BitVec.ofNat 32
      (x.otap.toNat + 2 ^ 5 * x.width.toNat + 2 ^ 10 * x.taps.toNat + 2 ^ 31 * x.valid.toNat) := by
  have hv := x.valid.toNat_lt
  apply BitVec.eq_of_toNat_eq
  simp only [ucfgWord, toNat_append_add, BitVec.toNat_ofBool, BitVec.toNat_ofNat]
  omega

/-- A word read of a readable register returns its value, given as a number, and takes the event off the schedule. -/
theorem step_admittedRead {off : BitVec 6} {r : RegName} {rest : List BusEvent} {n : Nat}
    (hb : s.bus = .transaction (.read off .word) :: rest) (hr : admittedRead off .word = some r)
    (hn : readReg r s = BitVec.ofNat 32 n) :
    step s = .next { s with bus := rest, reads := s.reads ++ [BitVec.ofNat 32 n] } := by
  rw [step_event s hb, ← hn]
  exact congrArg _ (serveRead_admitted _ hr)

/-- Settles O11: each readable offset is admitted as its register, whose fields make up the number. -/
theorem admittedReadReturnsTheRegister : Obligations.AdmittedReadReturnsTheRegister := by
  unfold Obligations.AdmittedReadReturnsTheRegister
  intro s rest off n hmem hb
  obtain ⟨hStatus, hShift, hChipcnt, hPrnsel, hInfo, hUcfg0, hUval0, hUcfg1, hUval1, hUcfg2, hUval2⟩ :=
    admittedRead_word
  simp only [List.mem_cons, Prod.mk.injEq, List.not_mem_nil, or_false] at hmem
  obtain ⟨rfl, rfl⟩ | ⟨rfl, rfl⟩ | ⟨rfl, rfl⟩ | ⟨rfl, rfl⟩ | ⟨rfl, rfl⟩ | ⟨rfl, rfl⟩ | ⟨rfl, rfl⟩ | ⟨rfl, rfl⟩ |
    ⟨rfl, rfl⟩ | ⟨rfl, rfl⟩ | ⟨rfl, rfl⟩ := hmem
  · exact step_admittedRead hb hStatus (statusWord_eq_ofNat s)
  · exact step_admittedRead hb hShift ((BitVec.ofNat_toNat 32 s.shift).trans (BitVec.setWidth_eq _)).symm
  · exact step_admittedRead hb hChipcnt (BitVec.ofNat_toNat 32 s.chipcnt).symm
  · exact step_admittedRead hb hPrnsel (BitVec.ofNat_toNat 32 s.prnsel).symm
  · exact step_admittedRead hb hInfo (infoWord_eq_ofNat s.params)
  · exact step_admittedRead hb hUcfg0 (ucfgWord_eq_ofNat s.u0)
  · exact step_admittedRead hb hUval0 (BitVec.ofNat_toNat 32 s.u0.value).symm
  · exact step_admittedRead hb hUcfg1 (ucfgWord_eq_ofNat s.u1)
  · exact step_admittedRead hb hUval1 (BitVec.ofNat_toNat 32 s.u1.value).symm
  · exact step_admittedRead hb hUcfg2 (ucfgWord_eq_ofNat s.u2)
  · exact step_admittedRead hb hUval2 (BitVec.ofNat_toNat 32 s.u2.value).symm

end Sys2Proof.Machine
end

section
/-! PROOF. One step that serves a transaction: a word write to CMD, and an access that is not admitted
(20_memory.md R42, R44). -/

namespace Sys2Proof.Machine

variable {s : State} {rest : List BusEvent}

/-! ## A word write to CMD -/

theorem step_cmdWrite {w : Word} (hb : s.bus = .transaction (.write 0 .word w) :: rest) :
    step s = execute w { s with bus := rest } := by
  rw [step_event s hb]
  exact serveWrite_cmd _ w

/-- Settles O8: the step executes the word (`step_cmdWrite`), and a word that decodes runs as its command. -/
theorem stepRunsTheDecodedCommand : Obligations.StepRunsTheDecodedCommand := by
  unfold Obligations.StepRunsTheDecodedCommand
  intro s w rest hb
  refine ⟨step_cmdWrite hb, fun i hi => ?_⟩
  rw [step_cmdWrite hb, execute_ok _ hi]

/-! ## Refused accesses -/

/-- The record of a refused access, field by field (60_exceptions.md R131). -/
theorem record_bus_eq (s : State) :
    s.record .bus = { s with errcode := if s.errcode = 0 then 5 else s.errcode } := rfl

theorem step_refusedRead {off : BitVec 6} {size : AccessSize} (hb : s.bus = .transaction (.read off size) :: rest)
    (hr : admittedRead off size = none) :
    step s = .next ((({ s with bus := rest } : State).record .bus).reply 0) := by
  rw [step_event s hb]
  exact congrArg _ (serveRead_refused _ hr)

theorem step_refusedWrite {off : BitVec 6} {size : AccessSize} {v : Word}
    (hb : s.bus = .transaction (.write off size v) :: rest) (hw : ¬ (size = .word ∧ off = 0)) :
    step s = .next (({ s with bus := rest } : State).record .bus) := by
  rw [step_event s hb]
  exact serveWrite_refused _ hw v

/-- Settles O12: both refusals record BUS (`record_bus_eq`), and the refused read replies 0. -/
theorem refusedAccessRecordsBus : Obligations.RefusedAccessRecordsBus := by
  unfold Obligations.RefusedAccessRecordsBus
  intro s rest off size
  refine ⟨fun hr hb => ?_, fun v hw hb => ?_⟩
  · rw [step_refusedRead hb ((admittedRead_none_iff off size).2 hr), record_bus_eq]
    rfl
  · rw [step_refusedWrite hb hw, record_bus_eq]

end Sys2Proof.Machine
end

section
/-! PROOF. What the decoder answers, opcode by opcode and format by format (30_encoding.md R60, R61, R65, R66). -/

namespace Sys2Proof.Machine

variable {w : Word}

/-! ## The UNIT field -/

/-- The command of the unit that a UNIT field names; the value 3 names none (30_encoding.md R65). -/
def onUnit (unit : BitVec 2) (command : UnitId → Instr) : Except Illegal Instr :=
  match unit.toNat with
  | 0 => .ok (command .u0)
  | 1 => .ok (command .u1)
  | 2 => .ok (command .u2)
  | _ => .error .unitThree

@[simp] theorem onUnit_unitCode (u : UnitId) (command : UnitId → Instr) :
    onUnit (unitCode u) command = .ok (command u) := by cases u <;> rfl

@[simp] theorem onUnit_three (command : UnitId → Instr) : onUnit 3 command = .error .unitThree := rfl

/-- A UNIT field is 3 or the code of a unit (30_encoding.md R65). -/
theorem unit_three_or_code : ∀ unit : BitVec 2, unit = 3 ∨ ∃ u, unit = unitCode u
  | 0 => .inr ⟨.u0, rfl⟩
  | 1 => .inr ⟨.u1, rfl⟩
  | 2 => .inr ⟨.u2, rfl⟩
  | 3 => .inl rfl

theorem onUnit_eq_ok {unit : BitVec 2} {command : UnitId → Instr} {i : Instr} (h : onUnit unit command = .ok i) :
    ∃ u, unit = unitCode u ∧ i = command u := by
  obtain rfl | ⟨u, rfl⟩ := unit_three_or_code unit
  · cases h
  · rw [onUnit_unitCode] at h
    cases h
    exact ⟨u, rfl, rfl⟩

/-! ## The decoder at each opcode -/

theorem decode_op_zero (h : (fieldOp w).toNat = 0) :
    decode w = if w.extractLsb' 0 28 ≠ 0 then .error .reservedBits else .ok .nop := by
  simp only [decode, h, decodeN]

theorem decode_op_one (h : (fieldOp w).toNat = 1) :
    decode w = onUnit (fieldUnit w) fun u => configOn u (fieldTaps w) (fieldWidth w) (fieldOtap w) := by
  simp only [decode, h]
  rfl

theorem decode_op_two (h : (fieldOp w).toNat = 2) :
    decode w = if w.extractLsb' 16 10 ≠ 0 then .error .reservedBits
      else onUnit (fieldUnit w) fun u => seedOn u (fieldImm w) := by
  simp only [decode, h]
  rfl

theorem decode_op_three (h : (fieldOp w).toNat = 3) :
    decode w = if w.extractLsb' 16 10 ≠ 0 then .error .reservedBits
      else onUnit (fieldUnit w) fun u => stepOn u (fieldImm w).toNat := by
  simp only [decode, h]
  rfl

theorem decode_op_four (h : (fieldOp w).toNat = 4) :
    decode w = if w.extractLsb' 8 20 ≠ 0 then .error .reservedBits else .ok (.prn (fieldId w)) := by
  simp only [decode, h, decodeP]

theorem decode_op_five (h : (fieldOp w).toNat = 5) :
    decode w = if w.extractLsb' 16 12 ≠ 0 then .error .reservedBits else .ok (.gold (fieldImm w).toNat) := by
  simp only [decode, h, decodeG]

theorem decode_op_six (h : (fieldOp w).toNat = 6) :
    decode w = if w.extractLsb' 3 25 ≠ 0 then .error .reservedBits else .ok (.clear (fieldMask w)) := by
  simp only [decode, h, decodeK]

theorem decode_op_reserved (h : 7 ≤ (fieldOp w).toNat) : decode w = .error .reservedOpcode := by
  unfold decode
  split
  case h_8 => rfl
  all_goals omega

/-! ## Execution of a word, format by format -/

/-- A format without a UNIT field: the reserved bits decide. -/
theorem execute_of_reserved {n : Nat} {reserved : BitVec n} {i : Instr}
    (h : decode w = if reserved ≠ 0 then .error .reservedBits else .ok i) (s : State) :
    execute w s = if reserved ≠ 0 then .next (s.record .illegal) else exec i s := by
  split at h
  · exact (execute_error s h).trans (if_pos ‹_›).symm
  · exact (execute_ok s h).trans (if_neg ‹_›).symm

/-- Format C: the UNIT field decides. -/
theorem execute_of_unit {unit : BitVec 2} {command : UnitId → Instr} (h : decode w = onUnit unit command) (s : State) :
    (unit = 3 → execute w s = .next (s.record .illegal)) ∧
      ∀ u, unit = unitCode u → execute w s = exec (command u) s := by
  refine ⟨fun h3 => ?_, fun u hu => ?_⟩
  · rw [h3, onUnit_three] at h
    exact execute_error s h
  · rw [hu, onUnit_unitCode] at h
    exact execute_ok s h

/-- Format U: the reserved bits and the UNIT field decide. -/
theorem execute_of_reserved_unit {n : Nat} {reserved : BitVec n} {unit : BitVec 2} {command : UnitId → Instr}
    (h : decode w = if reserved ≠ 0 then .error .reservedBits else onUnit unit command) (s : State) :
    (reserved ≠ 0 ∨ unit = 3 → execute w s = .next (s.record .illegal)) ∧
      ∀ u, unit = unitCode u → reserved = 0 → execute w s = exec (command u) s := by
  by_cases hr : reserved = 0
  · rw [if_neg (not_not.2 hr)] at h
    obtain ⟨hThree, hCode⟩ := execute_of_unit h s
    exact ⟨fun hbad => hThree (hbad.resolve_left (not_not.2 hr)), fun u hu _ => hCode u hu⟩
  · rw [if_pos hr] at h
    exact ⟨fun _ => execute_error s h, fun _ _ h0 => absurd h0 hr⟩

/-- Settles O5: the decoder's equation at each opcode, run by the lemma of its format; the record of ILLEGAL is the
statement's by definition. -/
theorem executeFollowsTheOpcodeCases : Obligations.ExecuteFollowsTheOpcodeCases := by
  unfold Obligations.ExecuteFollowsTheOpcodeCases
  intro w s
  exact ⟨fun h => execute_of_reserved (decode_op_zero h) s, fun h => execute_of_unit (decode_op_one h) s,
    fun h => execute_of_reserved_unit (decode_op_two h) s, fun h => execute_of_reserved_unit (decode_op_three h) s,
    fun h => execute_of_reserved (decode_op_four h) s, fun h => execute_of_reserved (decode_op_five h) s,
    fun h => execute_of_reserved (decode_op_six h) s, fun h => execute_error s (decode_op_reserved h)⟩

end Sys2Proof.Machine
end

section
/-! PROOF. The opcode table against the decoder (30_encoding.md R67), and the example words (R71). -/

namespace Sys2Proof.Machine

variable {w : Word}

theorem field_eq_zero_iff (w : Word) (lo len : Nat) :
    w.extractLsb' lo len = 0 ↔ w.toNat / 2 ^ lo % 2 ^ len = 0 := by
  rw [← field_toNat]
  exact BitVec.toNat_eq.trans (by simp)

/-! ## A word selected by a row decodes to the row's command

Each family's rows are given by the number above their free bits. -/

theorem decode_config {u : UnitId} (h : w.toNat / 2 ^ 26 = 4 + (unitCode u).toNat) :
    decode w = .ok (configOn u (fieldTaps w) (fieldWidth w) (fieldOtap w)) := by
  have hunit : fieldUnit w = unitCode u := BitVec.eq_of_toNat_eq (by rw [fieldUnit_toNat]; omega)
  rw [decode_op_one (by rw [fieldOp_toNat]; omega), hunit, onUnit_unitCode]

theorem decode_seed {u : UnitId} (h : w.toNat / 2 ^ 16 = 0x2000 + 0x400 * (unitCode u).toNat) :
    decode w = .ok (seedOn u (fieldImm w)) := by
  have hunit : fieldUnit w = unitCode u := BitVec.eq_of_toNat_eq (by rw [fieldUnit_toNat]; omega)
  have hres : w.extractLsb' 16 10 = 0 := (field_eq_zero_iff w 16 10).2 (by omega)
  rw [decode_op_two (by rw [fieldOp_toNat]; omega), if_neg (not_not.2 hres), hunit, onUnit_unitCode]

theorem decode_step {u : UnitId} (h : w.toNat / 2 ^ 16 = 0x3000 + 0x400 * (unitCode u).toNat) :
    decode w = .ok (stepOn u (fieldImm w).toNat) := by
  have hunit : fieldUnit w = unitCode u := BitVec.eq_of_toNat_eq (by rw [fieldUnit_toNat]; omega)
  have hres : w.extractLsb' 16 10 = 0 := (field_eq_zero_iff w 16 10).2 (by omega)
  rw [decode_op_three (by rw [fieldOp_toNat]; omega), if_neg (not_not.2 hres), hunit, onUnit_unitCode]

theorem decode_nop (h : w.toNat / 2 ^ 0 = 0) : decode w = .ok .nop := by
  have hres : w.extractLsb' 0 28 = 0 := (field_eq_zero_iff w 0 28).2 (by omega)
  rw [decode_op_zero (by rw [fieldOp_toNat]; omega), if_neg (not_not.2 hres)]

theorem decode_prn (h : w.toNat / 2 ^ 8 = 0x400000) : decode w = .ok (.prn (fieldId w)) := by
  have hres : w.extractLsb' 8 20 = 0 := (field_eq_zero_iff w 8 20).2 (by omega)
  rw [decode_op_four (by rw [fieldOp_toNat]; omega), if_neg (not_not.2 hres)]

theorem decode_gold (h : w.toNat / 2 ^ 16 = 0x5000) : decode w = .ok (.gold (fieldImm w).toNat) := by
  have hres : w.extractLsb' 16 12 = 0 := (field_eq_zero_iff w 16 12).2 (by omega)
  rw [decode_op_five (by rw [fieldOp_toNat]; omega), if_neg (not_not.2 hres)]

theorem decode_clear (h : w.toNat / 2 ^ 3 = 0xC000000) : decode w = .ok (.clear (fieldMask w)) := by
  have hres : w.extractLsb' 3 25 = 0 := (field_eq_zero_iff w 3 25).2 (by omega)
  rw [decode_op_six (by rw [fieldOp_toNat]; omega), if_neg (not_not.2 hres)]

/-- The row a word selects is the row of the command it decodes to. -/
theorem decode_of_selects {r : OpcodeRow} (hr : r ∈ opcodeTable) (hw : r.selects w = true) :
    ∃ i, decode w = .ok i ∧ i.mnemonic = r.mnemonic := by
  have high (k : Nat) (hm : r.mask = BitVec.allOnes 32 <<< k) (hp : r.pattern.toNat % 2 ^ k = 0) :
      w.toNat / 2 ^ k = r.pattern.toNat / 2 ^ k := (selects_iff_div hm hp w).1 hw
  simp only [opcodeTable, List.mem_cons, List.not_mem_nil, or_false] at hr
  obtain rfl | rfl | rfl | rfl | rfl | rfl | rfl | rfl | rfl | rfl | rfl | rfl | rfl := hr
  · exact ⟨_, decode_nop (high 0 (by decide) (by decide)), rfl⟩
  · exact ⟨_, decode_config (u := .u0) (high 26 (by decide) (by decide)), rfl⟩
  · exact ⟨_, decode_config (u := .u1) (high 26 (by decide) (by decide)), rfl⟩
  · exact ⟨_, decode_config (u := .u2) (high 26 (by decide) (by decide)), rfl⟩
  · exact ⟨_, decode_seed (u := .u0) (high 16 (by decide) (by decide)), rfl⟩
  · exact ⟨_, decode_seed (u := .u1) (high 16 (by decide) (by decide)), rfl⟩
  · exact ⟨_, decode_seed (u := .u2) (high 16 (by decide) (by decide)), rfl⟩
  · exact ⟨_, decode_step (u := .u0) (high 16 (by decide) (by decide)), rfl⟩
  · exact ⟨_, decode_step (u := .u1) (high 16 (by decide) (by decide)), rfl⟩
  · exact ⟨_, decode_step (u := .u2) (high 16 (by decide) (by decide)), rfl⟩
  · exact ⟨_, decode_prn (high 8 (by decide) (by decide)), rfl⟩
  · exact ⟨_, decode_gold (high 16 (by decide) (by decide)), rfl⟩
  · exact ⟨_, decode_clear (high 3 (by decide) (by decide)), rfl⟩

/-! ## A decoded word is its command's word, which the command's row selects

The fields of a word make it up again, in each format with its reserved bits 0 (30_encoding.md R61). -/

theorem encodeC_fields (hop : (fieldOp w).toNat = 1) :
    encodeC (fieldUnit w) (fieldTaps w) (fieldWidth w) (fieldOtap w) = w := by
  rw [fieldOp_toNat] at hop
  apply BitVec.eq_of_toNat_eq
  rw [encodeC_toNat, fieldUnit_toNat, fieldTaps_toNat, fieldWidth_toNat, fieldOtap_toNat]
  omega

theorem encodeU_fields {op : BitVec 4} (hop : (fieldOp w).toNat = op.toNat) (hres : w.extractLsb' 16 10 = 0) :
    encodeU op (fieldUnit w) (fieldImm w) = w := by
  rw [field_eq_zero_iff] at hres
  apply BitVec.eq_of_toNat_eq
  rw [encodeU_toNat, ← hop, fieldOp_toNat, fieldUnit_toNat, fieldImm_toNat]
  omega

theorem encodeP_fields (hop : (fieldOp w).toNat = 4) (hres : w.extractLsb' 8 20 = 0) : encodeP (fieldId w) = w := by
  rw [fieldOp_toNat] at hop
  rw [field_eq_zero_iff] at hres
  apply BitVec.eq_of_toNat_eq
  rw [encodeP_toNat, fieldId_toNat]
  omega

theorem encodeG_fields (hop : (fieldOp w).toNat = 5) (hres : w.extractLsb' 16 12 = 0) : encodeG (fieldImm w) = w := by
  rw [fieldOp_toNat] at hop
  rw [field_eq_zero_iff] at hres
  apply BitVec.eq_of_toNat_eq
  rw [encodeG_toNat, fieldImm_toNat]
  omega

theorem encodeK_fields (hop : (fieldOp w).toNat = 6) (hres : w.extractLsb' 3 25 = 0) : encodeK (fieldMask w) = w := by
  rw [fieldOp_toNat] at hop
  rw [field_eq_zero_iff] at hres
  apply BitVec.eq_of_toNat_eq
  rw [encodeK_toNat, fieldMask_toNat]
  omega

theorem encode_configOn (u : UnitId) (taps : BitVec 16) (width otap : BitVec 5) :
    encode (configOn u taps width otap) = encodeC (unitCode u) taps width otap := by cases u <;> rfl

theorem encode_seedOn (u : UnitId) (v : BitVec 16) : encode (seedOn u v) = encodeU 2 (unitCode u) v := by
  cases u <;> rfl

theorem encode_stepOn (u : UnitId) (v : BitVec 16) : encode (stepOn u v.toNat) = encodeU 3 (unitCode u) v := by
  cases u <;> simp [stepOn, encode, unitCode]

theorem encode_gold (v : BitVec 16) : encode (.gold v.toNat) = encodeG v := by
  simp [encode]

theorem wellFormed_configOn (u : UnitId) (taps : BitVec 16) (width otap : BitVec 5) :
    (configOn u taps width otap).wellFormed = true := by cases u <;> rfl

theorem wellFormed_seedOn (u : UnitId) (v : BitVec 16) : (seedOn u v).wellFormed = true := by cases u <;> rfl

theorem countFits_imm (v : BitVec 16) : countFits v.toNat = true := decide_eq_true v.isLt

theorem wellFormed_stepOn (u : UnitId) (v : BitVec 16) : (stepOn u v.toNat).wellFormed = true := by
  cases u <;> exact countFits_imm v

/-- A format with reserved bits answers a command only when they are all 0 (30_encoding.md R66). -/
theorem eq_ok_of_reserved {n : Nat} {reserved : BitVec n} {x : Except Illegal Instr} {i : Instr}
    (h : (if reserved ≠ 0 then .error .reservedBits else x) = .ok i) : reserved = 0 ∧ x = .ok i := by
  split at h
  · cases h
  · exact ⟨not_not.1 ‹_›, h⟩

/-- A word decodes only to the well-formed command whose word it is (30_encoding.md section 1). -/
theorem encode_of_decode {i : Instr} (h : decode w = .ok i) : encode i = w ∧ i.wellFormed = true := by
  obtain h0 | h1 | h2 | h3 | h4 | h5 | h6 | h7 : (fieldOp w).toNat = 0 ∨ (fieldOp w).toNat = 1 ∨
      (fieldOp w).toNat = 2 ∨ (fieldOp w).toNat = 3 ∨ (fieldOp w).toNat = 4 ∨ (fieldOp w).toNat = 5 ∨
      (fieldOp w).toNat = 6 ∨ 7 ≤ (fieldOp w).toNat := by omega
  · obtain ⟨hres, ⟨⟩⟩ := eq_ok_of_reserved ((decode_op_zero h0).symm.trans h)
    rw [fieldOp_toNat] at h0
    rw [field_eq_zero_iff] at hres
    have hzero : 0 = w.toNat := by omega
    exact ⟨BitVec.eq_of_toNat_eq hzero, rfl⟩
  · obtain ⟨u, hu, rfl⟩ := onUnit_eq_ok ((decode_op_one h1).symm.trans h)
    exact ⟨by rw [encode_configOn, ← hu, encodeC_fields h1], wellFormed_configOn u _ _ _⟩
  · obtain ⟨hres, hi⟩ := eq_ok_of_reserved ((decode_op_two h2).symm.trans h)
    obtain ⟨u, hu, rfl⟩ := onUnit_eq_ok hi
    exact ⟨by rw [encode_seedOn, ← hu, encodeU_fields h2 hres], wellFormed_seedOn u _⟩
  · obtain ⟨hres, hi⟩ := eq_ok_of_reserved ((decode_op_three h3).symm.trans h)
    obtain ⟨u, hu, rfl⟩ := onUnit_eq_ok hi
    exact ⟨by rw [encode_stepOn, ← hu, encodeU_fields h3 hres], wellFormed_stepOn u _⟩
  · obtain ⟨hres, ⟨⟩⟩ := eq_ok_of_reserved ((decode_op_four h4).symm.trans h)
    exact ⟨encodeP_fields h4 hres, rfl⟩
  · obtain ⟨hres, ⟨⟩⟩ := eq_ok_of_reserved ((decode_op_five h5).symm.trans h)
    exact ⟨(encode_gold _).trans (encodeG_fields h5 hres), countFits_imm _⟩
  · obtain ⟨hres, ⟨⟩⟩ := eq_ok_of_reserved ((decode_op_six h6).symm.trans h)
    exact ⟨encodeK_fields h6 hres, rfl⟩
  · cases (decode_op_reserved h7).symm.trans h

/-- Each command's word is selected by the command's own row (30_encoding.md R67). -/
theorem encodesRow (i : Instr) : Laws.EncodesRow.Statement i := by
  cases i with
  | nop => exact Laws.EncodesRow.nop
  | config0 taps width otap => exact Laws.EncodesRow.config0 taps width otap
  | config1 taps width otap => exact Laws.EncodesRow.config1 taps width otap
  | config2 taps width otap => exact Laws.EncodesRow.config2 taps width otap
  | seed0 v => exact Laws.EncodesRow.seed0 v
  | seed1 v => exact Laws.EncodesRow.seed1 v
  | seed2 v => exact Laws.EncodesRow.seed2 v
  | step0 n => exact Laws.EncodesRow.step0 n
  | step1 n => exact Laws.EncodesRow.step1 n
  | step2 n => exact Laws.EncodesRow.step2 n
  | prn id => exact Laws.EncodesRow.prn id
  | gold n => exact Laws.EncodesRow.gold n
  | clear m => exact Laws.EncodesRow.clear m

theorem decode_error_of_no_row (h : ∀ r ∈ opcodeTable, w &&& r.mask ≠ r.pattern) : ∃ e, decode w = .error e := by
  cases hd : decode w with
  | error e => exact ⟨e, rfl⟩
  | ok i =>
    obtain ⟨hword, hwf⟩ := encode_of_decode hd
    obtain ⟨r, hr, -, hsel⟩ := encodesRow i hwf
    rw [hword] at hsel
    exact absurd (beq_iff_eq.1 hsel) (h r hr)

/-! ## The table -/

/-- No two rows bear one mnemonic. -/
theorem row_eq_of_mnemonic : ∀ r ∈ opcodeTable, ∀ r' ∈ opcodeTable, r.mnemonic = r'.mnemonic → r = r' := by decide

/-- Settles O3: a row's word decodes to the row's mnemonic (`decode_of_selects`), so two rows of one word are one row;
a word that decodes has a row (`decode_error_of_no_row`). -/
theorem opcodeRowsDecideTheCommand : Obligations.OpcodeRowsDecideTheCommand := by
  unfold Obligations.OpcodeRowsDecideTheCommand
  have decodes (w : Word) (r : OpcodeRow) (hr : r ∈ opcodeTable) (hw : w &&& r.mask = r.pattern) :=
    decode_of_selects hr (beq_iff_eq.2 hw)
  refine ⟨fun w r r' hr hr' hw hw' => ?_, decodes, fun w hw s => ?_, rfl⟩
  · obtain ⟨i, hi, hmn⟩ := decodes w r hr hw
    obtain ⟨i', hi', hmn'⟩ := decodes w r' hr' hw'
    cases hi.symm.trans hi'
    exact row_eq_of_mnemonic r hr r' hr' (hmn.symm.trans hmn')
  · obtain ⟨e, he⟩ := decode_error_of_no_row hw
    exact execute_error s he

/-! ## The example words -/

/-- OTAP stands in the low bits of a configuration's word, so it is added to the word with OTAP 0. -/
theorem encodeC_eq_add_otap (unit : BitVec 2) (taps : BitVec 16) (width otap : BitVec 5) :
    encodeC unit taps width otap = encodeC unit taps width 0#5 + otap.setWidth 32 := by
  apply BitVec.eq_of_toNat_eq
  simp only [BitVec.toNat_add, BitVec.toNat_setWidth, encodeC_toNat, BitVec.toNat_ofNat]
  omega

/-- Settles O4: the words are evaluated, and the general forms are those of output tap 0 with the tap added. -/
theorem decoderReadsTheExampleWords : Obligations.DecoderReadsTheExampleWords := by
  unfold Obligations.DecoderReadsTheExampleWords
  refine ⟨by decide, by decide, by decide, by decide, by decide, by decide, by decide, by decide, by decide,
    by decide, by decide, by decide, fun o => ⟨?_, ?_⟩⟩
  · exact encodeC_eq_add_otap 1 (tapMask [2, 3, 6, 8, 9, 10]) 10 o
  · exact encodeC_eq_add_otap 2 (tapMask [2, 3, 6, 8, 9, 10]) 10 o

end Sys2Proof.Machine
end

section
/-! PROOF. One engine step: its sampled bit, its feedback bit and its next VALUE, bit by bit and as numbers
(40_lfsr_engine.md R80 to R84). -/

namespace Sys2Proof.Machine

variable {x : LfsrUnit}

/-! ## The XOR of a list of bits -/

/-- The XOR of a list of bits is the parity of its 1s. -/
theorem toNat_foldr_xor {α : Type} (f : α → Bool) (l : List α) :
    ((l.map f).foldr xor false).toNat = l.countP f % 2 := by
  induction l with
  | nil => rfl
  | cons a l ih =>
    have hxor : ∀ a b : Bool, (xor a b).toNat = (a.toNat + b.toNat) % 2 := by decide
    rw [List.map_cons, List.foldr_cons, hxor, ih, List.countP_cons]
    cases f a
    · simp
    · simp [Nat.add_comm]

/-- The XOR of a list of bits is linear in them. -/
theorem foldr_xor_map_xor {α : Type} (f g : α → Bool) (l : List α) :
    (l.map fun a => xor (f a) (g a)).foldr xor false =
      xor ((l.map f).foldr xor false) ((l.map g).foldr xor false) := by
  induction l with
  | nil => rfl
  | cons a l ih =>
    simp only [List.map_cons, List.foldr_cons, ih, Bool.xor_assoc, Bool.xor_left_comm]

/-! ## The sampled bit and the feedback bit -/

theorem tapBit_eq_getLsbD (v : BitVec 16) (w p : Nat) : tapBit v w p = v.getLsbD (w - p) := by
  simp [tapBit]

theorem tapBit_eq_decide (v : BitVec 16) (w p : Nat) :
    tapBit v w p = decide (v.toNat / 2 ^ (w - p) % 2 = 1) := by
  rw [tapBit_eq_getLsbD, ← BitVec.testBit_toNat, Nat.testBit_eq_decide_div_mod_eq]

theorem tapBit_xor (a b : BitVec 16) (w p : Nat) : tapBit (a ^^^ b) w p = xor (tapBit a w p) (tapBit b w p) := by
  simp only [tapBit_eq_getLsbD, BitVec.getLsbD_xor]

/-- The sampled bit is linear in VALUE (40_lfsr_engine.md R84). -/
theorem LfsrUnit.out_xor (x : LfsrUnit) (a b : BitVec 16) :
    ({ x with value := a ^^^ b } : LfsrUnit).out =
      xor ({ x with value := a } : LfsrUnit).out ({ x with value := b } : LfsrUnit).out :=
  tapBit_xor a b _ _

/-- The feedback bit is linear in VALUE (40_lfsr_engine.md R84). -/
theorem LfsrUnit.feedback_xor (x : LfsrUnit) (a b : BitVec 16) :
    ({ x with value := a ^^^ b } : LfsrUnit).feedback =
      xor ({ x with value := a } : LfsrUnit).feedback ({ x with value := b } : LfsrUnit).feedback := by
  simp only [LfsrUnit.feedback, tapBit_xor, Bool.and_xor_distrib_left, foldr_xor_map_xor]

/-- The feedback bit is the parity of the tapped 1s (40_lfsr_engine.md R81). -/
theorem LfsrUnit.toNat_feedback (x : LfsrUnit) :
    x.feedback.toNat =
      ((List.range' 1 x.width.toNat).countP fun p =>
        x.taps.toNat.testBit (p - 1) && decide (x.value.toNat / 2 ^ (x.width.toNat - p) % 2 = 1)) % 2 := by
  simp only [LfsrUnit.feedback, toNat_foldr_xor, tapBit_eq_decide, BitVec.testBit_toNat]

/-! ## The next VALUE -/

/-- The feedback bit stands above the old value's upper bits (40_lfsr_engine.md R82). -/
theorem LfsrUnit.getLsbD_nextValue (h1 : 1 ≤ x.width.toNat) (hv : x.value.toNat < 2 ^ x.width.toNat) {i : Nat}
    (hi : i < 16) :
    x.nextValue.getLsbD i = if i = x.width.toNat - 1 then x.feedback else x.value.getLsbD (i + 1) := by
  have htop : (!decide (i < x.width.toNat - 1) && decide (i - (x.width.toNat - 1) = 0)) =
      decide (i = x.width.toNat - 1) := by
    rw [Bool.eq_iff_iff]
    simp only [Bool.and_eq_true, Bool.not_eq_true', decide_eq_true_eq, decide_eq_false_iff_not]
    omega
  have hbits : x.nextValue.getLsbD i =
      (decide (i = x.width.toNat - 1) && x.feedback || x.value.getLsbD (i + 1)) := by
    simp [LfsrUnit.nextValue, hi, ← htop, Bool.and_assoc, Nat.add_comm 1 i]
  rw [hbits]
  split
  case isTrue hi' =>
    have habove : x.value.getLsbD (i + 1) = false :=
      Nat.testBit_lt_two_pow (by rwa [hi', Nat.sub_add_cancel h1])
    rw [habove]
    simp [hi']
  case isFalse hi' => simp [hi']

/-- The next VALUE as a number: the two parts of the OR share no bit (40_lfsr_engine.md R82). -/
theorem LfsrUnit.toNat_nextValue (h1 : 1 ≤ x.width.toNat) (h16 : x.width.toNat ≤ 16)
    (hv : x.value.toNat < 2 ^ x.width.toNat) :
    x.nextValue.toNat = x.feedback.toNat * 2 ^ (x.width.toNat - 1) + x.value.toNat / 2 := by
  have hp : 2 ^ x.width.toNat = 2 * 2 ^ (x.width.toNat - 1) := by rw [← pow_succ', Nat.sub_add_cancel h1]
  have hle : x.feedback.toNat * 2 ^ (x.width.toNat - 1) ≤ 1 * 2 ^ 15 :=
    Nat.mul_le_mul x.feedback.toNat_le (Nat.pow_le_pow_right (by omega) (by omega))
  have hbit : ((BitVec.ofBool x.feedback).setWidth 16).toNat = x.feedback.toNat := by cases x.feedback <;> rfl
  rw [LfsrUnit.nextValue, BitVec.toNat_or, BitVec.toNat_shiftLeft, BitVec.toNat_ushiftRight, hbit, Nat.shiftLeft_eq,
    Nat.mod_eq_of_lt (by omega), ← Nat.shiftLeft_eq, ← Nat.shiftLeft_add_eq_or_of_lt, Nat.shiftRight_eq_div_pow]
  · rw [Nat.shiftRight_eq_div_pow]
    omega

/-- The next VALUE is linear in VALUEs that fit the width (40_lfsr_engine.md R84). -/
theorem LfsrUnit.nextValue_xor {a b : BitVec 16} (h1 : 1 ≤ x.width.toNat) (ha : a.toNat < 2 ^ x.width.toNat)
    (hb : b.toNat < 2 ^ x.width.toNat) :
    ({ x with value := a ^^^ b } : LfsrUnit).nextValue =
      ({ x with value := a } : LfsrUnit).nextValue ^^^ ({ x with value := b } : LfsrUnit).nextValue := by
  have hab : (a ^^^ b).toNat < 2 ^ x.width.toNat := by
    rw [BitVec.toNat_xor]
    exact Nat.xor_lt_two_pow ha hb
  apply BitVec.eq_of_getLsbD_eq
  intro i hi
  rw [BitVec.getLsbD_xor, getLsbD_nextValue (x := { x with value := a ^^^ b }) h1 hab hi,
    getLsbD_nextValue (x := { x with value := a }) h1 ha hi, getLsbD_nextValue (x := { x with value := b }) h1 hb hi]
  split
  · exact feedback_xor x a b
  · exact BitVec.getLsbD_xor

/-! ## Fixed points -/

theorem LfsrUnit.out_of_zero (h0 : x.value = 0) : x.out = false := by
  simp [LfsrUnit.out, tapBit_eq_getLsbD, h0]

theorem LfsrUnit.feedback_of_zero (h0 : x.value = 0) : x.feedback = false := by
  have h := x.toNat_feedback
  simpa [h0] using h

theorem LfsrUnit.stepped_of_zero (h0 : x.value = 0) : x.stepped = x := by
  have hnext : x.nextValue = x.value := by simp [LfsrUnit.nextValue, feedback_of_zero h0, h0]
  rw [LfsrUnit.stepped, hnext]

/-- The one tap of a width-1 unit feeds its one bit back (40_lfsr_engine.md R84). -/
theorem LfsrUnit.stepped_of_width_one {wmax : BitVec 5} (h : UnitLegal wmax x) (hvalid : x.valid = true)
    (hw : x.width = 1) : x.stepped = x := by
  obtain ⟨h1, -, htaps, hshift, -, -, hv⟩ := h.1 hvalid
  have hW : x.width.toNat = 1 := by rw [hw]; rfl
  have htap : x.taps = 1 := by
    rw [hW] at hshift
    bv_omega
  have hfb : x.feedback = x.value.getLsbD 0 := by
    simp [LfsrUnit.feedback, hW, htap, tapBit_eq_getLsbD]
  have hnext : x.nextValue = x.value := by
    apply BitVec.eq_of_toNat_eq
    rw [hW] at hv
    rw [toNat_nextValue h1 (by omega) (by rwa [hW]), hfb, hW, ← BitVec.testBit_toNat, Nat.toNat_testBit]
    omega
  rw [LfsrUnit.stepped, hnext]

theorem LfsrUnit.afterSteps_of_fixed (h : x.stepped = x) (n : Nat) : x.afterSteps n = x := by
  induction n with
  | zero => rfl
  | succ n ih => rw [afterSteps_succ, h, ih]

theorem LfsrUnit.outputs_of_fixed (h : x.stepped = x) (n : Nat) : x.outputs n = List.replicate n x.out := by
  induction n with
  | zero => rfl
  | succ n ih => rw [outputs_succ, h, ih, List.replicate_succ]

end Sys2Proof.Machine
end

section
/-! PROOF. The machine's unit against the source's register, a list of bits (40_lfsr_engine.md R80 to R82, R92). -/

namespace Sys2Proof.Machine

variable {x : LfsrUnit}

/-! ## The source's register -/

@[simp] theorem length_srcRegister (width v : Nat) : (srcRegister width v).length = width := by
  simp [srcRegister]

theorem getElem_srcRegister {width v i : Nat} (h : i < (srcRegister width v).length) :
    (srcRegister width v)[i] = v.testBit (width - 1 - i) := by
  simp [srcRegister]

/-- Position p of the source's register is the bit the machine reads there (00_scope.md R10). -/
theorem srcRead_srcRegister (v : BitVec 16) {width p : Nat} (h1 : 1 ≤ p) (hp : p ≤ width) :
    srcRead (srcRegister width v.toNat) p = tapBit v width p := by
  have hlt : p - 1 < (srcRegister width v.toNat).length := by
    rw [length_srcRegister]
    omega
  rw [srcRead, List.getD_eq_getElem _ _ hlt, getElem_srcRegister, tapBit_eq_getLsbD, ← BitVec.testBit_toNat]
  congr 1
  omega

/-- The source truncates an initial value to the width, so truncating it before changes nothing. -/
theorem srcRegister_mod (width v : Nat) : srcRegister width (v % 2 ^ width) = srcRegister width v := by
  refine List.map_congr_left fun i hi => ?_
  have hi' : i < width := List.mem_range.1 hi
  rw [Nat.testBit_mod_two_pow, decide_eq_true (by omega), Bool.true_and]

/-! ## One step -/

/-- The source's feedback does not depend on the order of the taps. -/
theorem srcFeedback_perm {l l' : List Nat} (h : l.Perm l') (r : List Bool) : srcFeedback r l = srcFeedback r l' :=
  (h.map _).foldr_eq' (fun a _ b _ z => Bool.xor_left_comm b a z) _

/-- XOR over the tapped positions is XOR over all positions with the untapped ones read as 0. -/
theorem foldr_xor_filter {α : Type} (p f : α → Bool) (l : List α) :
    ((l.filter p).map f).foldr xor false = (l.map fun a => p a && f a).foldr xor false := by
  induction l with
  | nil => rfl
  | cons a l ih => cases h : p a <;> simp [h, ih]

theorem mem_tapPositions {p : Nat} :
    p ∈ tapPositions x ↔ (1 ≤ p ∧ p ≤ x.width.toNat) ∧ x.taps.getLsbD (p - 1) = true := by
  simp [tapPositions, List.mem_range'_1, Nat.add_comm 1]

theorem nodup_tapPositions : (tapPositions x).Nodup := (List.nodup_range' (step := 1)).filter _

/-- The machine's feedback bit is the source's (40_lfsr_engine.md R81). -/
theorem srcFeedback_tapPositions (x : LfsrUnit) :
    srcFeedback (srcRegister x.width.toNat x.value.toNat) (tapPositions x) = x.feedback := by
  have hread : (tapPositions x).map (srcRead (srcRegister x.width.toNat x.value.toNat)) =
      (tapPositions x).map (tapBit x.value x.width.toNat) := by
    refine List.map_congr_left fun p hp => ?_
    obtain ⟨⟨h1, hW⟩, -⟩ := mem_tapPositions.1 hp
    exact srcRead_srcRegister x.value h1 hW
  rw [srcFeedback, hread, tapPositions, foldr_xor_filter, LfsrUnit.feedback]

/-- The machine's next VALUE is the source's shifted register (40_lfsr_engine.md R82). -/
theorem srcRegister_nextValue {taps : List Nat} (htaps : taps.Perm (tapPositions x)) (h1 : 1 ≤ x.width.toNat)
    (h16 : x.width.toNat ≤ 16) (hv : x.value.toNat < 2 ^ x.width.toNat) :
    srcRegister x.width.toNat x.nextValue.toNat = srcShift taps (srcRegister x.width.toNat x.value.toNat) := by
  rw [srcShift, srcFeedback_perm htaps, srcFeedback_tapPositions]
  apply List.ext_getElem
  · rw [length_srcRegister, List.length_cons, List.length_dropLast, length_srcRegister, Nat.sub_add_cancel h1]
  · intro i hi _
    have hiW : i < x.width.toNat := by simpa using hi
    rw [getElem_srcRegister, BitVec.testBit_toNat, LfsrUnit.getLsbD_nextValue h1 hv (by omega)]
    cases i with
    | zero => simp
    | succ i =>
      have hpos : x.width.toNat - 1 - (i + 1) + 1 = x.width.toNat - 1 - i := by omega
      rw [if_neg (by omega), List.getElem_cons_succ, List.getElem_dropLast, getElem_srcRegister, hpos,
        BitVec.testBit_toNat]

/-! ## A run of steps -/

section
variable {wmax : BitVec 5} {taps : List Nat} (h16 : wmax.toNat ≤ 16) (h : UnitLegal wmax x)
  (hvalid : x.valid = true) (htaps : taps.Perm (tapPositions x))
include h16 h hvalid htaps

/-- The bits the engine samples are those the source's `generate` gives (40_lfsr_engine.md R80, R89). -/
theorem LfsrUnit.outputs_eq_generate (n : Nat) :
    x.outputs n = generate x.width.toNat taps x.otap.toNat x.value.toNat n := by
  induction n generalizing x with
  | zero => rfl
  | succ n ih =>
    obtain ⟨h1, hW, -, -, ho1, hoW, hv⟩ := h.1 hvalid
    have hnext := srcRegister_nextValue htaps h1 (by omega) hv
    rw [outputs_succ, ih (h.stepped hvalid) hvalid htaps, generate, generate, srcBits,
      srcRead_srcRegister _ ho1 hoW, ← hnext]
    rfl

end

/-! ## The tap set of a configuration (30_encoding.md R63) -/

theorem getLsbD_tapMask {taps : List Nat} (htaps : ∀ p ∈ taps, 1 ≤ p ∧ p ≤ 16) {p : Nat} (hp : 1 ≤ p) :
    (tapMask taps).getLsbD (p - 1) = true ↔ p ∈ taps := by
  induction taps with
  | nil => simp [tapMask]
  | cons q taps ih =>
    obtain ⟨hq, hrest⟩ := List.forall_mem_cons.1 htaps
    have hone : (1#16 <<< (q - 1)).getLsbD (p - 1) = true ↔ p = q := by
      simp
      omega
    rw [tapMask, List.foldr_cons, ← tapMask, BitVec.getLsbD_or, Bool.or_eq_true, hone, ih hrest, List.mem_cons]

/-- A legal configuration's mask holds exactly the listed positions (40_lfsr_engine.md R86). -/
theorem perm_tapPositions {taps : List Nat} (hnodup : taps.Nodup) (hrange : ∀ p ∈ taps, 1 ≤ p ∧ p ≤ 16)
    (hmask : x.taps = tapMask taps) (hshift : x.taps >>> x.width.toNat = 0) : taps.Perm (tapPositions x) := by
  refine (List.perm_ext_iff_of_nodup hnodup nodup_tapPositions).2 fun p => ?_
  rw [mem_tapPositions, hmask]
  constructor
  · intro hp
    have hp1 := (hrange p hp).1
    have hbit := (getLsbD_tapMask hrange hp1).2 hp
    refine ⟨⟨hp1, ?_⟩, hbit⟩
    by_contra hW
    have hpos : x.width.toNat + (p - 1 - x.width.toNat) = p - 1 := by omega
    have hzero : (x.taps >>> x.width.toNat).getLsbD (p - 1 - x.width.toNat) = false := by rw [hshift]; simp
    rw [BitVec.getLsbD_ushiftRight, hpos, hmask, hbit] at hzero
    cases hzero
  · rintro ⟨⟨hp1, -⟩, hbit⟩
    exact (getLsbD_tapMask hrange hp1).1 hbit

end Sys2Proof.Machine
end

section
/-! PROOF. The engine's commands CONFIG, SEED and STEP, from the state they run in to the one they leave
(40_lfsr_engine.md R80 to R92). -/

namespace Sys2Proof.Machine

variable {s : State} {u : UnitId}

/-! ## The commands on a configured unit and on one that is not -/

/-- `capture(b)` as a number (10_state.md R24). -/
theorem captured_eq_ofNat (c : BitVec 32) (b : Bool) : captured c b = BitVec.ofNat 32 (2 * c.toNat + b.toNat) := by
  have hone : b.toNat < 2 ^ 1 := b.toNat_lt
  have hbit : ((BitVec.ofBool b).setWidth 32).toNat = b.toNat % 2 ^ 32 := by cases b <;> rfl
  apply BitVec.eq_of_toNat_eq
  rw [captured, BitVec.toNat_or, BitVec.toNat_shiftLeft, hbit, ← Nat.or_mod_two_pow,
    ← Nat.shiftLeft_add_eq_or_of_lt hone, Nat.shiftLeft_eq, BitVec.toNat_ofNat, Nat.mul_comm, pow_one]

theorem record_of_errcode_ne_zero (h : s.errcode ≠ 0) (e : ErrCode) : s.record e = s := by
  rw [State.record, recorded_of_ne_zero e h]

theorem stepCommand_valid (hv : (s.unit u).valid = true) (n : Nat) : stepCommand u n s = stepRun u n s :=
  requireUnit_valid s u hv

theorem stepCommand_invalid (hv : (s.unit u).valid = false) (n : Nat) : stepCommand u n s = s.record .unconf :=
  requireUnit_invalid s u hv

theorem seedUnit_valid (hv : (s.unit u).valid = true) (v : BitVec 16) :
    seedUnit u v s = s.setUnit u ((s.unit u).seeded v) :=
  requireUnit_valid s u hv

theorem seedUnit_invalid (hv : (s.unit u).valid = false) (v : BitVec 16) : seedUnit u v s = s.record .unconf :=
  requireUnit_invalid s u hv

theorem unit_stepRun (s : State) (u : UnitId) (n : Nat) : (stepRun u n s).unit u = (s.unit u).afterSteps n := by
  rw [stepRun_eq, ← State.unit_setUnit_same s u ((s.unit u).afterSteps n)]
  cases u <;> rfl

theorem stepRun_errcode (s : State) (u : UnitId) (n : Nat) : (stepRun u n s).errcode = s.errcode := by
  rw [stepRun_eq, State.setUnit_errcode]

theorem stepRun_stream (s : State) (u : UnitId) (n : Nat) :
    (stepRun u n s).stream = s.stream ++ entriesOf (.unit u) ((s.unit u).outputs n) := by
  rw [stepRun_eq]

/-- STEP on a configured unit completes with its loop run (40_lfsr_engine.md R89). -/
theorem exec_stepOn_valid (hv : (s.unit u).valid = true) (n : Nat) :
    exec (stepOn u n) s = .next (stepRun u n s) := by
  rw [exec_stepOn, stepCommand_valid hv]

/-! ## One STEP -/

/-- Settles O24: the loop's one turn (`stepRun_eq`) with its bit, its next VALUE and its capture as numbers. -/
theorem engineStepFollowsTheFormulas : Obligations.EngineStepFollowsTheFormulas := by
  unfold Obligations.EngineStepFollowsTheFormulas
  intro s u hinv hvalid x W v fb b
  obtain ⟨h1, hW, -, -, -, -, hv⟩ := (hinv.unitLegal u).1 hvalid
  have hout : x.out = b := tapBit_eq_decide _ _ _
  refine ⟨x.nextValue, ?_, ?_⟩
  · rw [LfsrUnit.toNat_nextValue h1 (hW.trans hinv.wmax_le) hv, LfsrUnit.toNat_feedback]
  · rw [exec_stepOn_valid hvalid, stepRun_eq, ← captured_eq_ofNat, ← hout]
    rfl

/-- Settles O26: no turn, or one turn, of the loop on a configured unit. -/
theorem stepZeroAndStepOne : Obligations.StepZeroAndStepOne := by
  unfold Obligations.StepZeroAndStepOne
  intro s u hvalid
  exact ⟨exec_stepOn_valid hvalid 0, _, exec_stepOn_valid hvalid 1, stepRun_stream s u 1⟩

/-! ## Two STEPs -/

/-- Settles O27: on a configured unit the loops join (`stepRun_add`); on another the second UNCONF is not recorded
over the first. -/
theorem stepContinues : Obligations.StepContinues := by
  unfold Obligations.StepContinues
  intro s u a b
  rw [execAll_cons s (exec_stepOn s u a), execAll_one _ _ (exec_stepOn _ u b), exec_stepOn]
  cases hv : (s.unit u).valid with
  | true =>
    have hv' : ((stepRun u a s).unit u).valid = true := by rw [unit_stepRun, (LfsrUnit.afterSteps_fields a).1, hv]
    rw [stepCommand_valid hv, stepCommand_valid hv', stepCommand_valid hv, stepRun_add]
  | false =>
    have hv' : ((s.record .unconf).unit u).valid = false := by rw [State.unit_record, hv]
    rw [stepCommand_invalid hv, stepCommand_invalid hv', stepCommand_invalid hv,
      record_of_errcode_ne_zero (recorded_ne_zero .unconf s.errcode)]

/-! ## Laws of the engine step -/

/-- Settles O28: the fields and the bound of one step, linearity bit by bit, and the two fixed points, which any
number of steps keeps. -/
theorem engineStepProperties : Obligations.EngineStepProperties := by
  unfold Obligations.EngineStepProperties
  refine ⟨fun wmax x hx hvalid => ?_, fun x a b => ⟨LfsrUnit.nextValue_xor, x.out_xor a b⟩,
    fun s u n hvalid h0 => ?_, fun s u n hinv hvalid hwidth => ?_⟩
  · obtain ⟨h1, -, -, -, -, -, hv⟩ := hx.1 hvalid
    exact ⟨x.nextValue, rfl, LfsrUnit.nextValue_lt h1 hv⟩
  · have hfixed := LfsrUnit.stepped_of_zero h0
    refine ⟨_, exec_stepOn_valid hvalid n, ?_, stepRun_errcode s u n, ?_⟩
    · rw [unit_stepRun, LfsrUnit.afterSteps_of_fixed hfixed]
    · rw [stepRun_stream, LfsrUnit.outputs_of_fixed hfixed, LfsrUnit.out_of_zero h0, entriesOf, List.map_replicate]
  · have hfixed := LfsrUnit.stepped_of_width_one (hinv.unitLegal u) hvalid hwidth
    exact ⟨_, exec_stepOn_valid hvalid n, by rw [unit_stepRun, LfsrUnit.afterSteps_of_fixed hfixed]⟩

/-! ## CONFIG -/

/-- Settles O21: a legal CONFIG sets the unit and an illegal one records PARAM, on each of the three units. -/
theorem configSetsTheUnitExactlyWhenLegal : Obligations.ConfigSetsTheUnitExactlyWhenLegal := by
  unfold Obligations.ConfigSetsTheUnitExactlyWhenLegal
  intro s taps width otap made legal
  refine ⟨fun hlegal => ?_, fun hillegal => ?_⟩
  · have hset (u : UnitId) : exec (configOn u taps width otap) s = .next (s.setUnit u (made (s.unit u))) := by
      rw [exec_configOn, configUnit_legal s u hlegal]
      rfl
    exact ⟨hset .u0, hset .u1, hset .u2⟩
  · have hrecord (u : UnitId) : exec (configOn u taps width otap) s = .next (s.record .param) := by
      rw [exec_configOn, configUnit_illegal s u hillegal]
    exact ⟨hrecord .u0, hrecord .u1, hrecord .u2⟩

/-! ## Units that are not configured -/

/-- Settles O23: each command's check of its units comes first and records UNCONF; GOLD's fails if any unit's does. -/
theorem unreadyUnitsRaiseUnconf : Obligations.UnreadyUnitsRaiseUnconf := by
  unfold Obligations.UnreadyUnitsRaiseUnconf
  intro s u hv
  have hnot : ¬ (s.u0.valid = true ∧ s.u1.valid = true ∧ s.u2.valid = true) := by
    rintro ⟨h0, h1, h2⟩
    have hu : (s.unit u).valid = true := by cases u <;> assumption
    rw [hv] at hu
    cases hu
  refine ⟨fun v => ?_, fun n => ?_, fun n => ?_⟩
  · rw [exec_seedOn, seedUnit_invalid hv]
    rfl
  · rw [exec_stepOn, stepCommand_invalid hv]
    rfl
  · rw [exec_gold, goldCommand_unready hnot]
    rfl

/-! ## CONFIG, SEED, STEP -/

/-- With legal parameters CONFIG and SEED succeed, so STEP runs on the unit they leave (40_lfsr_engine.md R92). -/
theorem exec_config_seed_step {taps : BitVec 16} {width otap : BitVec 5} (hc : LegalConfig s.params width taps otap)
    (v : BitVec 16) (n : Nat) :
    execAll [configOn u taps width otap, seedOn u v, stepOn u n] s =
      .next (stepRun u n (s.setUnit u (((s.unit u).configured taps width otap).seeded v))) := by
  have hconfig : exec (configOn u taps width otap) s = .next (s.setUnit u ((s.unit u).configured taps width otap)) := by
    rw [exec_configOn, configUnit_legal s u hc]
  rw [execAll_cons s hconfig]
  generalize hx : (s.unit u).configured taps width otap = x
  have hvalid : x.valid = true := by rw [← hx]; rfl
  have hseed : exec (seedOn u v) (s.setUnit u x) = .next (s.setUnit u (x.seeded v)) := by
    rw [exec_seedOn, seedUnit_valid (by rwa [State.unit_setUnit_same]), State.unit_setUnit_same, State.setUnit_setUnit]
  rw [execAll_cons _ hseed, execAll_one _ _ (exec_stepOn_valid (by rwa [State.unit_setUnit_same]) n)]

/-- A unit so configured and seeded samples the source's bits: its tap set is the list's positions, and the source
truncates the seed as SEED does. -/
theorem outputs_configured_seeded {p : Params} (hp : ParamsLegal p) {taps : List Nat} (hnodup : taps.Nodup)
    (hrange : ∀ q ∈ taps, 1 ≤ q ∧ q ≤ 16) {width otap : BitVec 5} (hc : LegalConfig p width (tapMask taps) otap)
    (x : LfsrUnit) (v : BitVec 16) (n : Nat) :
    ((x.configured (tapMask taps) width otap).seeded v).outputs n =
      generate width.toNat taps otap.toNat v.toNat n := by
  obtain ⟨-, h16, -⟩ := hp
  have hlegal := (UnitLegal.configured h16 hc x).seeded h16 rfl v
  obtain ⟨-, hW, -, hshift, -, -⟩ := hc
  rw [LfsrUnit.outputs_eq_generate h16 hlegal rfl (perm_tapPositions hnodup hrange rfl hshift)]
  show generate width.toNat taps otap.toNat (v &&& widthMask width.toNat).toNat n = _
  rw [and_widthMask_toNat v (hW.trans h16), generate, srcRegister_mod, generate]

theorem execAll_seed_step_invalid (hv : (s.unit u).valid = false) (herr : s.errcode ≠ 0) (v : BitVec 16) (n : Nat) :
    execAll [seedOn u v, stepOn u n] s = .next s := by
  have hseed : exec (seedOn u v) s = .next s := by
    rw [exec_seedOn, seedUnit_invalid hv, record_of_errcode_ne_zero herr]
  have hstep : exec (stepOn u n) s = .next s := by
    rw [exec_stepOn, stepCommand_invalid hv, record_of_errcode_ne_zero herr]
  rw [execAll_cons s hseed, execAll_one s _ hstep]

/-- Settles O29: legal parameters leave a unit that samples the source's bits (`outputs_configured_seeded`); illegal
ones leave the record of PARAM, which an unconfigured unit's UNCONF does not replace. -/
theorem genEmitsTheSourceSequence : Obligations.GenEmitsTheSourceSequence := by
  unfold Obligations.GenEmitsTheSourceSequence
  intro s u taps width otap v n hp hnodup hrange _
  refine ⟨fun hc => ⟨_, exec_config_seed_step hc v n, ?_, ?_⟩, fun hc => ?_⟩
  · rw [stepRun_stream, State.setUnit_stream, State.unit_setUnit_same, outputs_configured_seeded hp hnodup hrange hc]
  · rw [stepRun_errcode, State.setUnit_errcode]
  · have hconfig : exec (configOn u (tapMask taps) width otap) s = .next (s.record .param) := by
      rw [exec_configOn, configUnit_illegal s u hc]
    refine ⟨execAll_cons s hconfig _, fun hv h0 => ?_⟩
    have hrecord : s.record .param = { s with errcode := 2 } := by
      rw [State.record, h0]
      rfl
    rw [execAll_cons s hconfig, ← hrecord]
    exact execAll_seed_step_invalid (by rw [State.unit_record, hv]) (recorded_ne_zero .param s.errcode) v n

end Sys2Proof.Machine
end

section
/-! PROOF. PRN and GOLD as commands: the units PRN loads, the chips GOLD emits from them, and the source's `get_code`
(41_gold_generator.md R102 to R111). -/

namespace Sys2Proof.Machine

variable {s : State} {id : BitVec 8}

/-! ## GOLD's loop, field by field -/

@[simp] theorem goldRun_u0 (n : Nat) (s : State) : (goldRun n s).u0 = s.u0.afterSteps n := by rw [goldRun_eq]
@[simp] theorem goldRun_u1 (n : Nat) (s : State) : (goldRun n s).u1 = s.u1.afterSteps n := by rw [goldRun_eq]
@[simp] theorem goldRun_u2 (n : Nat) (s : State) : (goldRun n s).u2 = s.u2.afterSteps n := by rw [goldRun_eq]
@[simp] theorem goldRun_errcode (n : Nat) (s : State) : (goldRun n s).errcode = s.errcode := by rw [goldRun_eq]
@[simp] theorem goldRun_chipcnt (n : Nat) (s : State) : (goldRun n s).chipcnt = chipsCounted n s.chipcnt := by
  rw [goldRun_eq]
@[simp] theorem goldRun_stream (n : Nat) (s : State) :
    (goldRun n s).stream = s.stream ++ entriesOf .gold (goldChips n s.u0 s.u1 s.u2) := by rw [goldRun_eq]
@[simp] theorem goldRun_shift (n : Nat) (s : State) :
    (goldRun n s).shift = captureAll s.shift (goldChips n s.u0 s.u1 s.u2) := by rw [goldRun_eq]

/-- A longer run of chips begins with the shorter one (41_gold_generator.md R107). -/
theorem goldChips_take {n k : Nat} (h : k ≤ n) (x0 x1 x2 : LfsrUnit) :
    (goldChips n x0 x1 x2).take k = goldChips k x0 x1 x2 := by
  simp only [goldChips, combineBits, List.take_zipWith, LfsrUnit.outputs_take h]

/-- GOLD on three configured units completes with its loop run (41_gold_generator.md R107). -/
theorem exec_gold_ready (h0 : s.u0.valid = true) (h1 : s.u1.valid = true) (h2 : s.u2.valid = true) (n : Nat) :
    exec (.gold n) s = .next (goldRun n s) := by
  rw [exec_gold, goldCommand_ready h0 h1 h2]

/-- Settles O36: the loop's one turn (`goldRun_eq`), whose chip is sampled from the units before it. -/
theorem goldChipIsTheXorOfTheOutputs : Obligations.GoldChipIsTheXorOfTheOutputs := by
  unfold Obligations.GoldChipIsTheXorOfTheOutputs
  intro s h0 h1 h2 out
  exact ⟨_, exec_gold_ready h0 h1 h2 1, goldRun_stream 1 s, goldRun_u0 1 s, goldRun_u1 1 s, goldRun_u2 1 s⟩

/-! ## PRN -/

/-- PRN of a valid identifier loads the units from its ROM entry (41_gold_generator.md R104). -/
theorem exec_prn_valid (h : 1 ≤ id.toNat ∧ id.toNat ≤ 37) (s : State) :
    exec (.prn id) s = .next (prnLoad id (s.params.tapAssign[id.toNat - 1]'(by omega)) s) := by
  rw [exec_prn, prnCommand_valid s h]

theorem exec_prn_invalid (h : ¬ (1 ≤ id.toNat ∧ id.toNat ≤ 37)) (s : State) :
    exec (.prn id) s = .next (prnInvalid s) := by
  rw [exec_prn, prnCommand_invalid s h]

/-- Settles O32: the two outcomes of the ROM lookup; the failed one has an error recorded, its own or an earlier one. -/
theorem prnLoadsTheValidIdentifiers : Obligations.PrnLoadsTheValidIdentifiers := by
  unfold Obligations.PrnLoadsTheValidIdentifiers
  intro s id
  exact ⟨fun h => exec_prn_valid h s, fun h => ⟨_, exec_prn_invalid h s, recorded_ne_zero .prn s.errcode, rfl⟩⟩

/-- After a failed PRN the units are not configured and an error is recorded, so GOLD changes nothing further
(41_gold_generator.md R105). -/
theorem exec_gold_prnInvalid (n : Nat) (s : State) : exec (.gold n) (prnInvalid s) = .next (prnInvalid s) := by
  have hu0 : (prnInvalid s).u0.valid ≠ true := Bool.false_ne_true
  rw [exec_gold, goldCommand_unready fun ⟨h0, _⟩ => hu0 h0, record_of_errcode_ne_zero (recorded_ne_zero .prn s.errcode)]

theorem execAll_prn_gold_invalid (h : ¬ (1 ≤ id.toNat ∧ id.toNat ≤ 37)) (n : Nat) (s : State) :
    execAll [.prn id, .gold n] s = .next (prnInvalid s) := by
  rw [execAll_cons s (exec_prn_invalid h s), execAll_one _ _ (exec_gold_prnInvalid n s)]

/-- Settles O33: the whole state `PRN_invalid()` leaves, and GOLD's UNCONF not recorded over its PRN. -/
theorem invalidPrnInvalidatesTheUnits : Obligations.InvalidPrnInvalidatesTheUnits := by
  unfold Obligations.InvalidPrnInvalidatesTheUnits
  intro s id n h
  refine ⟨exec_prn_invalid h s, ?_⟩
  rw [execAll_prn_gold_invalid h, exec_prn_invalid h]

/-! ## GOLD after a valid PRN -/

theorem exec_gold_prnLoad (id : BitVec 8) (t : TapPair) (n : Nat) (s : State) :
    exec (.gold n) (prnLoad id t s) = .next (goldRun n (prnLoad id t s)) :=
  exec_gold_ready rfl rfl rfl n

theorem execAll_prn_gold (h : 1 ≤ id.toNat ∧ id.toNat ≤ 37) (n : Nat) (s : State) :
    execAll [.prn id, .gold n] s =
      .next (goldRun n (prnLoad id (s.params.tapAssign[id.toNat - 1]'(by omega)) s)) := by
  rw [execAll_cons s (exec_prn_valid h s), execAll_one _ _ (exec_gold_prnLoad id _ n s)]

/-- The first n chips from the units PRN loads: they depend on its ROM entry alone (41_gold_generator.md R109). -/
def prnChips (t : TapPair) (n : Nat) : List Bool :=
  goldChips n LfsrUnit.goldReference (LfsrUnit.goldVariable t.s1) (LfsrUnit.goldVariable t.s2)

@[simp] theorem length_prnChips (t : TapPair) (n : Nat) : (prnChips t n).length = n := length_goldChips n _ _ _

theorem prnChips_take {n k : Nat} (h : k ≤ n) (t : TapPair) : (prnChips t n).take k = prnChips t k :=
  goldChips_take h _ _ _

theorem stream_gold_prnLoad (id : BitVec 8) (t : TapPair) (n : Nat) (s : State) :
    (goldRun n (prnLoad id t s)).stream = s.stream ++ entriesOf .gold (prnChips t n) := goldRun_stream n _

/-- PRN clears SHIFT, so only its own chips are in it (41_gold_generator.md R110). -/
theorem shift_gold_prnLoad (id : BitVec 8) (t : TapPair) (n : Nat) (s : State) :
    (goldRun n (prnLoad id t s)).shift = captureAll 0 (prnChips t n) := goldRun_shift n _

/-! ## The source's `get_code` -/

/-- The reference register samples the source's sequence (41_gold_generator.md R100). -/
theorem outputs_goldReference (n : Nat) : LfsrUnit.goldReference.outputs n = generate 10 [10, 3] 10 1023 n :=
  LfsrUnit.outputs_eq_generate (wmax := 16) (by decide) (.goldReference (by decide)) rfl (by decide) n

/-- A variable register samples the source's sequence for its output tap (41_gold_generator.md R100). -/
theorem outputs_goldVariable {o : BitVec 4} (h1 : 1 ≤ o.toNat) (h10 : o.toNat ≤ 10) (n : Nat) :
    (LfsrUnit.goldVariable o).outputs n = generate 10 [10, 9, 8, 6, 3, 2] o.toNat 1023 n := by
  have hperm : [10, 9, 8, 6, 3, 2].Perm (tapPositions (LfsrUnit.goldVariable o)) := by
    show [10, 9, 8, 6, 3, 2].Perm (tapPositions (LfsrUnit.goldVariable 0))
    decide
  have hotap : (LfsrUnit.goldVariable o).otap.toNat = o.toNat := BitVec.toNat_setWidth_of_le (by decide)
  rw [LfsrUnit.outputs_eq_generate (wmax := 16) (by decide) (.goldVariable (by decide) h1 h10) rfl hperm, hotap]
  rfl

/-- With legal parameters `get_code` is the chips from the units PRN loads (41_gold_generator.md R109). -/
theorem getCode_eq_prnChips {p : Params} (hp : ParamsLegal p) {i : Nat} (h : 1 ≤ i ∧ i ≤ 37) :
    getCode p i = some (prnChips (p.tapAssign[i - 1]'(by omega)) 1023) := by
  obtain ⟨⟨hlo1, hhi1⟩, hlo2, hhi2⟩ := (tapPairInRange_iff _).1 (ParamsLegal.entry hp (i := i - 1) (by omega))
  rw [getCode, dif_pos h, prnChips, goldChips, outputs_goldReference, outputs_goldVariable hlo1 hhi1,
    outputs_goldVariable hlo2 hhi2]

/-- Settles O38: PRN and GOLD emit `prnChips` (`stream_gold_prnLoad`), which are the source's code; a failed PRN leaves
GOLD nothing to run on. -/
theorem getcodeEmitsTheSourceCode : Obligations.GetcodeEmitsTheSourceCode := by
  unfold Obligations.GetcodeEmitsTheSourceCode
  intro s id hp
  refine ⟨fun h => ⟨_, _, execAll_prn_gold h 1023 s, getCode_eq_prnChips hp h, length_prnChips _ _,
    stream_gold_prnLoad id _ 1023 s, goldRun_errcode 1023 _⟩, fun h => ⟨dif_neg h, ?_⟩⟩
  exact ⟨_, execAll_prn_gold_invalid h 1023 s, rfl, rfl⟩

/-! ## The first ten chips in SHIFT -/

/-- Bits packed MSB-first behind a number (41_gold_generator.md R110). -/
def packed (acc : Nat) (bits : List Bool) : Nat := bits.foldl (fun acc b => 2 * acc + b.toNat) acc

theorem firstTen_eq_packed (chips : List Bool) : firstTen chips = packed 0 (chips.take 10) := rfl

/-- One more bit at most doubles the range. -/
theorem packed_range_succ (acc : Nat) (b : Bool) (len : Nat) :
    (2 * acc + b.toNat + 1) * 2 ^ len ≤ (acc + 1) * 2 ^ (len + 1) := by
  rw [pow_succ', ← mul_assoc]
  exact Nat.mul_le_mul_right _ (by have := b.toNat_le; omega)

theorem packed_lt (acc : Nat) (bits : List Bool) : packed acc bits < (acc + 1) * 2 ^ bits.length := by
  induction bits generalizing acc with
  | nil => simp [packed]
  | cons b bits ih => exact (ih _).trans_le (packed_range_succ acc b bits.length)

/-- Captured bits are packed behind what SHIFT held, as long as all of it fits (10_state.md R24). -/
theorem captureAll_toNat (c : BitVec 32) (bits : List Bool) (h : (c.toNat + 1) * 2 ^ bits.length ≤ 2 ^ 32) :
    (captureAll c bits).toNat = packed c.toNat bits := by
  induction bits generalizing c with
  | nil => rfl
  | cons b bits ih =>
    have hle : (2 * c.toNat + b.toNat + 1) * 2 ^ bits.length ≤ 2 ^ 32 :=
      (packed_range_succ c.toNat b bits.length).trans h
    have hfits : 2 * c.toNat + b.toNat < 2 ^ 32 := (Nat.le_mul_of_pos_right _ (Nat.two_pow_pos _)).trans hle
    have hcaptured : (captured c b).toNat = 2 * c.toNat + b.toNat := by
      rw [captured_eq_ofNat, BitVec.toNat_ofNat, Nat.mod_eq_of_lt hfits]
    rw [captureAll_cons, ih _ (by rwa [hcaptured]), hcaptured]
    rfl

theorem two_pow_length_take_ten (chips : List Bool) : 2 ^ (chips.take 10).length ≤ 1024 :=
  Nat.pow_le_pow_right (n := 2) (by decide) (List.length_take_le 10 chips)

/-- A cleared SHIFT holds the first ten chips as the source packs them. -/
theorem captureAll_take_ten (chips : List Bool) : (captureAll 0 (chips.take 10)).toNat = firstTen chips := by
  rw [firstTen_eq_packed]
  refine captureAll_toNat 0 _ (?_ : (0 + 1) * 2 ^ (chips.take 10).length ≤ 2 ^ 32)
  have := two_pow_length_take_ten chips
  omega

theorem firstTen_lt (chips : List Bool) : firstTen chips < 1024 := by
  have hlt := packed_lt 0 (chips.take 10)
  have := two_pow_length_take_ten chips
  rw [firstTen_eq_packed]
  omega

/-- Identifier 1 has the entry (2, 6) wherever the parameters are legal; its first ten chips are octal 1440
(41_gold_generator.md R110). -/
theorem captureAll_prnChips_one : captureAll 0 (prnChips ⟨2, 6⟩ 10) = 0o1440 := by decide

/-- Settles O40: SHIFT, which PRN cleared, captures ten chips, and they are the first ten of the source's code. -/
theorem shiftHoldsTheFirstTenChips : Obligations.ShiftHoldsTheFirstTenChips := by
  unfold Obligations.ShiftHoldsTheFirstTenChips
  refine ⟨fun s id hp hlo hhi => ?_, fun s hp => ?_⟩
  · have hshift : (goldRun 10 (prnLoad id (s.params.tapAssign[id.toNat - 1]'(by omega)) s)).shift.toNat =
        firstTen (prnChips (s.params.tapAssign[id.toNat - 1]'(by omega)) 1023) := by
      rw [shift_gold_prnLoad, ← prnChips_take (n := 1023) (by decide), captureAll_take_ten]
    exact ⟨_, _, execAll_prn_gold ⟨hlo, hhi⟩ 10 s, getCode_eq_prnChips hp ⟨hlo, hhi⟩, hshift, hshift ▸ firstTen_lt _⟩
  · obtain ⟨-, -, -, hentry, -⟩ := hp
    refine ⟨_, execAll_prn_gold (id := 1) (by decide) 10 s, ?_⟩
    rw [shift_gold_prnLoad, ← captureAll_prnChips_one]
    exact congrArg (fun t => captureAll 0 (prnChips t 10)) hentry

/-! ## Identifiers 34 and 37 -/

/-- The identifier reaches PRNSEL alone, which GOLD does not read (41_gold_generator.md R111). -/
theorem goldRun_prnLoad_withPrnsel (id : BitVec 8) (t : TapPair) (n : Nat) (s : State) :
    goldRun n (prnLoad id t s) = { goldRun n (prnLoad 0 t s) with prnsel := id } := by
  rw [goldRun_eq, goldRun_eq]
  rfl

/-- Settles O41: the two identifiers have one ROM entry, and everything but PRNSEL depends on the entry alone. -/
theorem identifiers34And37ShareTheirCode : Obligations.Identifiers34And37ShareTheirCode := by
  unfold Obligations.Identifiers34And37ShareTheirCode
  intro s hp
  obtain ⟨-, -, -, -, hentry⟩ := hp
  have h34 : (1 ≤ (34#8).toNat ∧ (34#8).toNat ≤ 37) := by decide
  have h37 : (1 ≤ (37#8).toNat ∧ (37#8).toNat ≤ 37) := by decide
  refine ⟨⟨prnLoad 0 s.params.tapAssign[33] s, exec_prn_valid h34 s, ?_⟩,
    ⟨goldRun 1023 (prnLoad 0 s.params.tapAssign[33] s), ?_, ?_⟩⟩
  · rw [hentry]
    exact exec_prn_valid h37 s
  · rw [← goldRun_prnLoad_withPrnsel]
    exact execAll_prn_gold h34 1023 s
  · rw [← goldRun_prnLoad_withPrnsel, hentry]
    exact execAll_prn_gold h37 1023 s

end Sys2Proof.Machine
end

section
/-! PROOF. U1 and U2 after PRN: whatever runs on U0, they advance together and differ only in OTAP
(41_gold_generator.md R108). -/

namespace Sys2Proof.Machine

variable {s t : State} {u u' : UnitId}

/-! ## Commands on another unit -/

theorem requireUnit_unit {effect : State} (h : effect.unit u' = s.unit u') :
    (requireUnit u effect s).unit u' = s.unit u' := by
  obtain ⟨_, heq⟩ | ⟨_, heq⟩ := requireUnit_cases s u effect <;> rw [heq]
  · exact h
  · exact State.unit_record s u' .unconf

theorem configUnit_unit_other (h : u' ≠ u) (taps : BitVec 16) (width otap : BitVec 5) (s : State) :
    (configUnit u taps width otap s).unit u' = s.unit u' := by
  by_cases hc : LegalConfig s.params width taps otap
  · rw [configUnit_legal s u hc, State.unit_setUnit_other s u u' _ h]
  · rw [configUnit_illegal s u hc, State.unit_record]

theorem seedUnit_unit_other (h : u' ≠ u) (v : BitVec 16) (s : State) : (seedUnit u v s).unit u' = s.unit u' :=
  requireUnit_unit (State.unit_setUnit_other s u u' _ h)

theorem stepRun_unit_other (h : u' ≠ u) (n : Nat) (s : State) : (stepRun u n s).unit u' = s.unit u' := by
  rw [stepRun_eq, ← State.unit_setUnit_other s u u' ((s.unit u).afterSteps n) h]
  cases u' <;> rfl

theorem stepCommand_unit_other (h : u' ≠ u) (n : Nat) (s : State) : (stepCommand u n s).unit u' = s.unit u' :=
  requireUnit_unit (stepRun_unit_other h n s)

/-! ## Commands that leave U1 and U2 in step -/

/-- The commands that do not configure, seed or step U1 or U2 alone, nor load them anew. -/
def SparesVariableUnits (i : Instr) : Prop :=
  (∃ n, i = .gold n) ∨ i = .nop ∨ (∃ m, i = .clear m) ∨ (∃ a b c, i = .config0 a b c) ∨ (∃ v, i = .seed0 v) ∨
    ∃ n, i = .step0 n

/-- U1 and U2 of one state are those of another after one number of steps. -/
def VariableUnitsAdvance (s t : State) : Prop := ∃ m, t.u1 = s.u1.afterSteps m ∧ t.u2 = s.u2.afterSteps m

theorem VariableUnitsAdvance.of_same (h : ∀ u', u' ≠ .u0 → t.unit u' = s.unit u') : VariableUnitsAdvance s t :=
  ⟨0, h .u1 (by decide), h .u2 (by decide)⟩

theorem VariableUnitsAdvance.trans {r : State} (h : VariableUnitsAdvance r s) (h' : VariableUnitsAdvance s t) :
    VariableUnitsAdvance r t := by
  obtain ⟨m, h1, h2⟩ := h
  obtain ⟨m', h1', h2'⟩ := h'
  exact ⟨m + m', by rw [h1', h1, LfsrUnit.afterSteps_add], by rw [h2', h2, LfsrUnit.afterSteps_add]⟩

theorem goldCommand_advances (n : Nat) (s : State) : VariableUnitsAdvance s (goldCommand n s) := by
  by_cases h : s.u0.valid = true ∧ s.u1.valid = true ∧ s.u2.valid = true
  · obtain ⟨h0, h1, h2⟩ := h
    rw [goldCommand_ready h0 h1 h2]
    exact ⟨n, goldRun_u1 n s, goldRun_u2 n s⟩
  · rw [goldCommand_unready h]
    exact .of_same fun u' _ => State.unit_record s u' .unconf

theorem exec_advances {i : Instr} (hi : SparesVariableUnits i) (s : State) :
    ∃ t, exec i s = .next t ∧ VariableUnitsAdvance s t := by
  obtain ⟨n, rfl⟩ | rfl | ⟨m, rfl⟩ | ⟨taps, width, otap, rfl⟩ | ⟨v, rfl⟩ | ⟨n, rfl⟩ := hi
  · exact ⟨_, exec_gold s n, goldCommand_advances n s⟩
  · exact ⟨_, exec_nop s, .of_same fun _ _ => rfl⟩
  · exact ⟨_, exec_clear s m, .of_same fun u' _ => by cases u' <;> rfl⟩
  · exact ⟨_, exec_configOn s .u0 taps width otap, .of_same fun _ h => configUnit_unit_other h taps width otap s⟩
  · exact ⟨_, exec_seedOn s .u0 v, .of_same fun _ h => seedUnit_unit_other h v s⟩
  · exact ⟨_, exec_stepOn s .u0 n, .of_same fun _ h => stepCommand_unit_other h n s⟩

theorem execAll_advances {cmds : List Instr} (hcmds : ∀ i ∈ cmds, SparesVariableUnits i)
    (ht : execAll cmds s = .next t) : VariableUnitsAdvance s t := by
  induction cmds generalizing s with
  | nil =>
    cases ht
    exact .of_same fun _ _ => rfl
  | cons i cmds ih =>
    obtain ⟨hi, hrest⟩ := List.forall_mem_cons.1 hcmds
    obtain ⟨s', hs', hadv⟩ := exec_advances hi s
    rw [execAll_cons s hs'] at ht
    exact hadv.trans (ih hrest ht)

/-! ## U1 and U2 -/

/-- The output tap takes no part in a step (40_lfsr_engine.md R82). -/
theorem LfsrUnit.afterSteps_withOtap (x : LfsrUnit) (o : BitVec 5) (n : Nat) :
    ({ x with otap := o } : LfsrUnit).afterSteps n = { x.afterSteps n with otap := o } := by
  induction n generalizing x with
  | zero => rfl
  | succ n ih => exact ih x.stepped

/-- Settles O39: every command of the list advances the two units PRN loaded by one number of steps
(`execAll_advances`), which their output taps do not touch. -/
theorem variableUnitsAgreeAfterPrn : Obligations.VariableUnitsAgreeAfterPrn := by
  unfold Obligations.VariableUnitsAgreeAfterPrn
  intro s t id cmds hlo hhi hcmds ht
  rw [execAll_cons s (exec_prn_valid ⟨hlo, hhi⟩ s)] at ht
  obtain ⟨m, h1, h2⟩ := execAll_advances hcmds ht
  have hagree : ({ t.u1 with otap := 0 } : LfsrUnit) = { t.u2 with otap := 0 } := by
    rw [h1, h2, ← LfsrUnit.afterSteps_withOtap, ← LfsrUnit.afterSteps_withOtap]
    rfl
  exact ⟨congrArg (·.value) hagree, hagree⟩

end Sys2Proof.Machine
end

section
/-! PROOF. The engine step as arithmetic on one number, the period of the two Gold registers, and the code's repetition
(40_lfsr_engine.md R93; 41_gold_generator.md R113). -/

namespace Sys2Proof.Machine

open Function (IsPeriodicPt minimalPeriod)

variable {x : LfsrUnit}

/-! ## The step on VALUE's number -/

/-- The next VALUE's number from VALUE's own, for a width and a list of tap positions (40_lfsr_engine.md R81, R82). -/
def nextNumber (width : Nat) (taps : List Nat) (v : Nat) : Nat :=
  (taps.countP fun p => decide (v / 2 ^ (width - p) % 2 = 1)) % 2 * 2 ^ (width - 1) + v / 2

theorem LfsrUnit.toNat_nextValue_eq_nextNumber (h1 : 1 ≤ x.width.toNat) (h16 : x.width.toNat ≤ 16)
    (hv : x.value.toNat < 2 ^ x.width.toNat) :
    x.nextValue.toNat = nextNumber x.width.toNat (tapPositions x) x.value.toNat := by
  rw [toNat_nextValue h1 h16 hv, toNat_feedback, nextNumber, tapPositions, List.countP_filter]
  simp only [BitVec.testBit_toNat, Bool.and_comm]

theorem LfsrUnit.toNat_value_afterSteps (h1 : 1 ≤ x.width.toNat) (h16 : x.width.toNat ≤ 16)
    (hv : x.value.toNat < 2 ^ x.width.toNat) (n : Nat) :
    (x.afterSteps n).value.toNat = (nextNumber x.width.toNat (tapPositions x))^[n] x.value.toNat := by
  induction n generalizing x with
  | zero => rfl
  | succ n ih =>
    rw [afterSteps_succ, ih (x := x.stepped) h1 h16 (nextValue_lt h1 hv), Function.iterate_succ_apply,
      ← toNat_nextValue_eq_nextNumber h1 h16 hv]
    rfl

/-! ## The period of the two registers -/

/-- 1023 = 3 * 11 * 31: a point that returns after 1023 turns and after none of 341, 93 and 33 has no smaller period. -/
theorem minimalPeriod_eq_1023 {f : Nat → Nat} {v : Nat} (h : IsPeriodicPt f 1023 v) (h3 : ¬ IsPeriodicPt f 341 v)
    (h11 : ¬ IsPeriodicPt f 93 v) (h31 : ¬ IsPeriodicPt f 33 v) : minimalPeriod f v = 1023 := by
  have hdiv : ∀ d ∈ Nat.divisors 1023, d = 1023 ∨ d ∣ 341 ∨ d ∣ 93 ∨ d ∣ 33 := by decide +kernel
  obtain heq | hd | hd | hd := hdiv _ (Nat.mem_divisors.2 ⟨h.minimalPeriod_dvd, by decide⟩)
  · exact heq
  · exact absurd (Function.isPeriodicPt_iff_minimalPeriod_dvd.2 hd) h3
  · exact absurd (Function.isPeriodicPt_iff_minimalPeriod_dvd.2 hd) h11
  · exact absurd (Function.isPeriodicPt_iff_minimalPeriod_dvd.2 hd) h31

/-- The reference register's taps (41_gold_generator.md R100), run from 0x3FF. -/
theorem minimalPeriod_reference : minimalPeriod (nextNumber 10 [3, 10]) 1023 = 1023 :=
  minimalPeriod_eq_1023 (by decide +kernel) (by decide +kernel) (by decide +kernel) (by decide +kernel)

/-- The variable registers' taps (41_gold_generator.md R100), run from 0x3FF. -/
theorem minimalPeriod_variable : minimalPeriod (nextNumber 10 [2, 3, 6, 8, 9, 10]) 1023 = 1023 :=
  minimalPeriod_eq_1023 (by decide +kernel) (by decide +kernel) (by decide +kernel) (by decide +kernel)

/-- From 0x3FF both registers, with any output tap, are at 0x3FF after the multiples of 1023 steps and no other number
(40_lfsr_engine.md R93). -/
theorem LfsrUnit.value_afterSteps_eq_iff (hw : x.width = 10) (ht : x.taps = 0x204 ∨ x.taps = 0x3A6)
    (hv : x.value = 0x3FF) (n : Nat) : (x.afterSteps n).value = 0x3FF ↔ 1023 ∣ n := by
  have hwidth : x.width.toNat = 10 := by rw [hw]; rfl
  have hvalue : x.value.toNat = 1023 := by rw [hv]; rfl
  have hfits : x.value.toNat < 2 ^ x.width.toNat := by rw [hvalue, hwidth]; decide
  have hperiod : minimalPeriod (nextNumber x.width.toNat (tapPositions x)) 1023 = 1023 := by
    rw [tapPositions, hwidth]
    obtain ht | ht := ht <;> rw [ht]
    · exact minimalPeriod_reference
    · exact minimalPeriod_variable
  rw [← BitVec.toNat_inj, toNat_value_afterSteps (by omega) (by omega) hfits, hvalue]
  show IsPeriodicPt _ n 1023 ↔ _
  rw [Function.isPeriodicPt_iff_minimalPeriod_dvd, hperiod]

/-! ## The code's repetition -/

/-- Steps write VALUE and nothing else (40_lfsr_engine.md R83), as one equation on the unit. -/
theorem LfsrUnit.afterSteps_eq_withValue (x : LfsrUnit) (n : Nat) :
    x.afterSteps n = { x with value := (x.afterSteps n).value } := by
  induction n generalizing x with
  | zero => rfl
  | succ n ih => exact ih x.stepped

theorem LfsrUnit.afterSteps_1023 (hw : x.width = 10) (ht : x.taps = 0x204 ∨ x.taps = 0x3A6) (hv : x.value = 0x3FF) :
    x.afterSteps 1023 = x := by
  rw [afterSteps_eq_withValue, (value_afterSteps_eq_iff hw ht hv 1023).2 dvd_rfl, ← hv]

/-- The units PRN loads are back after 1023 chips (41_gold_generator.md R113). -/
theorem units_gold_1023_prnLoad (id : BitVec 8) (t : TapPair) (s : State) :
    (goldRun 1023 (prnLoad id t s)).u0 = LfsrUnit.goldReference ∧
      (goldRun 1023 (prnLoad id t s)).u1 = LfsrUnit.goldVariable t.s1 ∧
      (goldRun 1023 (prnLoad id t s)).u2 = LfsrUnit.goldVariable t.s2 := by
  refine ⟨(goldRun_u0 1023 _).trans ?_, (goldRun_u1 1023 _).trans ?_, (goldRun_u2 1023 _).trans ?_⟩
  · exact LfsrUnit.afterSteps_1023 (x := LfsrUnit.goldReference) rfl (.inl rfl) rfl
  · exact LfsrUnit.afterSteps_1023 (x := LfsrUnit.goldVariable t.s1) rfl (.inr rfl) rfl
  · exact LfsrUnit.afterSteps_1023 (x := LfsrUnit.goldVariable t.s2) rfl (.inr rfl) rfl

/-- None of them is at 0x3FF before (41_gold_generator.md R113). -/
theorem values_gold_prnLoad_ne {k : Nat} (h1 : 1 ≤ k) (h1022 : k ≤ 1022) (id : BitVec 8) (t : TapPair) (s : State) :
    (goldRun k (prnLoad id t s)).u0.value ≠ 0x3FF ∧ (goldRun k (prnLoad id t s)).u1.value ≠ 0x3FF ∧
      (goldRun k (prnLoad id t s)).u2.value ≠ 0x3FF := by
  have hk : ¬ 1023 ∣ k := Nat.not_dvd_of_pos_of_lt h1 (by omega)
  have hne {x : LfsrUnit} (hw : x.width = 10) (ht : x.taps = 0x204 ∨ x.taps = 0x3A6) (hv : x.value = 0x3FF) :
      (x.afterSteps k).value ≠ 0x3FF := mt (LfsrUnit.value_afterSteps_eq_iff hw ht hv k).1 hk
  rw [goldRun_u0, goldRun_u1, goldRun_u2]
  exact ⟨hne rfl (.inl rfl) rfl, hne rfl (.inr rfl) rfl, hne rfl (.inr rfl) rfl⟩

theorem chipcnt_gold_1023_prnLoad (id : BitVec 8) (t : TapPair) (s : State) :
    (goldRun 1023 (prnLoad id t s)).chipcnt = 0 := by
  have hcleared : (prnLoad id t s).chipcnt = 0 := rfl
  apply BitVec.eq_of_toNat_eq
  rw [goldRun_chipcnt, hcleared, chipsCounted_toNat (by decide)]
  rfl

/-- Settles O42: after 1023 chips the three units are the loaded ones again, so GOLD emits the same chips; the period of
the registers (`LfsrUnit.value_afterSteps_eq_iff`) excludes an earlier return. -/
theorem goldCodeRepeatsAfter1023 : Obligations.GoldCodeRepeatsAfter1023 := by
  unfold Obligations.GoldCodeRepeatsAfter1023
  intro s id hlo hhi
  have hprn := exec_prn_valid ⟨hlo, hhi⟩ s
  generalize s.params.tapAssign[id.toNat - 1]'(by omega) = t at hprn
  obtain ⟨h0, h1, h2⟩ := units_gold_1023_prnLoad id t s
  have hagain := exec_gold_ready (s := goldRun 1023 (prnLoad id t s)) (by rw [h0]; rfl) (by rw [h1]; rfl)
    (by rw [h2]; rfl) 1023
  refine ⟨_, _, _, entriesOf .gold (prnChips t 1023), hprn, exec_gold_prnLoad id t 1023 s, hagain, h0, h1, h2,
    chipcnt_gold_1023_prnLoad id t s, ?_, stream_gold_prnLoad id t 1023 s, ?_, fun k hk1 hk => ?_⟩
  · rw [length_entriesOf, length_prnChips]
  · rw [goldRun_stream, h0, h1, h2, prnChips]
  · exact ⟨_, exec_gold_prnLoad id t k s, values_gold_prnLoad_ne hk1 hk id t s⟩

end Sys2Proof.Machine
end

section
/-! PROOF. The control commands NOP and CLEAR (42_control.md R120, R121), and what the other commands do to a recorded
error (60_exceptions.md R132). -/

namespace Sys2Proof.Machine

variable {s : State} {w : Word}

/-! ## A recorded error under the commands -/

theorem requireUnit_keeps_errcode (hs : s.errcode ≠ 0) {u : UnitId} {effect : State}
    (heff : effect.errcode = s.errcode) : (requireUnit u effect s).errcode = s.errcode := by
  obtain ⟨_, heq⟩ | ⟨_, heq⟩ := requireUnit_cases s u effect <;> rw [heq]
  · exact heff
  · rw [record_of_errcode_ne_zero hs]

theorem configUnit_keeps_errcode (hs : s.errcode ≠ 0) (u : UnitId) (taps : BitVec 16) (width otap : BitVec 5) :
    (configUnit u taps width otap s).errcode = s.errcode := by
  by_cases hc : LegalConfig s.params width taps otap
  · rw [configUnit_legal s u hc, State.setUnit_errcode]
  · rw [configUnit_illegal s u hc, record_of_errcode_ne_zero hs]

theorem prnCommand_keeps_errcode (hs : s.errcode ≠ 0) (id : BitVec 8) : (prnCommand id s).errcode = s.errcode := by
  by_cases hid : 1 ≤ id.toNat ∧ id.toNat ≤ 37
  · rw [prnCommand_valid s hid]
    rfl
  · rw [prnCommand_invalid s hid, prnInvalid, record_of_errcode_ne_zero hs]

/-- A command other than CLEAR keeps a recorded error: a later error is not recorded over it (60_exceptions.md R131). -/
theorem exec_keeps_errcode (hs : s.errcode ≠ 0) {i : Instr} (hi : ∀ m, i ≠ .clear m) :
    ∃ t, exec i s = .next t ∧ t.errcode = s.errcode := by
  obtain rfl | ⟨u, taps, width, otap, rfl⟩ | ⟨u, v, rfl⟩ | ⟨u, n, rfl⟩ | ⟨id, rfl⟩ | ⟨n, rfl⟩ | ⟨m, rfl⟩ :=
    Instr.shapes i
  · exact ⟨_, exec_nop s, rfl⟩
  · exact ⟨_, exec_configOn s u taps width otap, configUnit_keeps_errcode hs u taps width otap⟩
  · exact ⟨_, exec_seedOn s u v, requireUnit_keeps_errcode hs (State.setUnit_errcode s u _)⟩
  · exact ⟨_, exec_stepOn s u n, requireUnit_keeps_errcode hs (stepRun_errcode s u n)⟩
  · exact ⟨_, exec_prn s id, prnCommand_keeps_errcode hs id⟩
  · have hrun : (goldRun n s).errcode = s.errcode := goldRun_errcode n s
    exact ⟨_, exec_gold s n,
      requireUnit_keeps_errcode hs (requireUnit_keeps_errcode hs (requireUnit_keeps_errcode hs hrun))⟩
  · exact absurd rfl (hi m)

/-- CLEAR empties a recorded error only when mask bit 1 selects ERRCODE (42_control.md R121). -/
theorem selected_of_clearRegs_errcode (hs : s.errcode ≠ 0) {m : BitVec 3} (h : (clearRegs m s).errcode = 0) :
    m.getLsbD 1 = true := by
  by_contra hm
  have hkept : (clearRegs m s).errcode = s.errcode := if_neg hm
  exact hs (hkept.symm.trans h)

/-- The one command that empties a recorded error is CLEAR with mask bit 1 (60_exceptions.md R132). -/
theorem clear_of_exec_empties_errcode (hs : s.errcode ≠ 0) {i : Instr} {t : State} (ht : exec i s = .next t)
    (h0 : t.errcode = 0) : ∃ m, i = .clear m ∧ m.getLsbD 1 = true := by
  by_cases hi : ∃ m, i = .clear m
  · obtain ⟨m, rfl⟩ := hi
    rw [exec_clear] at ht
    cases ht
    exact ⟨m, rfl, selected_of_clearRegs_errcode hs h0⟩
  · obtain ⟨t', ht', hkept⟩ := exec_keeps_errcode hs (not_exists.1 hi)
    cases ht'.symm.trans ht
    exact absurd (hkept.symm.trans h0) hs

/-! ## The words of NOP and CLEAR -/

/-- NOP is the only command of word 0 and has no other word (42_control.md R120). -/
theorem decode_eq_nop_iff (w : Word) : decode w = .ok .nop ↔ w = 0 := by
  constructor
  · intro h
    obtain ⟨hword, -⟩ := encode_of_decode h
    exact hword.symm
  · rintro rfl
    exact decode_nop rfl

/-- CLEAR's word with its mask as an addend (30_encoding.md R61). -/
theorem toNat_clearWord (m : BitVec 3) : (0x60000000#32 + m.setWidth 32).toNat = 0x60000000 + m.toNat := by
  simp only [BitVec.toNat_add, BitVec.toNat_setWidth, BitVec.toNat_ofNat]
  omega

theorem decode_clearWord (m : BitVec 3) : decode (0x60000000#32 + m.setWidth 32) = .ok (.clear m) := by
  have hmask : fieldMask (0x60000000#32 + m.setWidth 32) = m := by
    apply BitVec.eq_of_toNat_eq
    rw [fieldMask_toNat, toNat_clearWord]
    omega
  rw [decode_clear (by rw [toNat_clearWord]; omega), hmask]

/-- A word of a format without a UNIT field records ILLEGAL only, when a reserved bit is 1 (30_encoding.md R66). -/
theorem execute_illegal_of_reserved {n : Nat} {reserved : BitVec n} {i : Instr}
    (h : decode w = if reserved ≠ 0 then .error .reservedBits else .ok i) (hres : reserved ≠ 0) (s : State) :
    execute w s = .next (s.record .illegal) :=
  (execute_of_reserved h s).trans (if_pos hres)

/-! ## The commands -/

/-- Settles O19: NOP's meaning, its one word (`decode_eq_nop_iff`), and the reserved bits of opcode 0. -/
theorem nopChangesNothing : Obligations.NopChangesNothing := by
  unfold Obligations.NopChangesNothing
  refine ⟨exec_nop, decode_eq_nop_iff, fun w s hop hres => ?_⟩
  have hzero : (fieldOp w).toNat = 0 := congrArg BitVec.toNat hop
  exact execute_illegal_of_reserved (decode_op_zero hzero) hres s

/-- Settles O20: CLEAR's meaning for every mask, its words (`decode_clearWord`), and no other command that empties a
recorded error (`clear_of_exec_empties_errcode`). -/
theorem clearClearsTheSelectedRegisters : Obligations.ClearClearsTheSelectedRegisters := by
  unfold Obligations.ClearClearsTheSelectedRegisters
  refine ⟨fun m s => exec_clear s m, fun s => exec_clear s 0, decode_clearWord,
    fun i s t ht hs h0 => clear_of_exec_empties_errcode hs ht h0, fun w s hop hres => ?_⟩
  have hsix : (fieldOp w).toNat = 6 := congrArg BitVec.toNat hop
  exact execute_illegal_of_reserved (decode_op_six hsix) hres s

end Sys2Proof.Machine
end

section
/-! PROOF. The error record: each cause's record with no other effect (60_exceptions.md R131), and the events that empty
a record (60_exceptions.md R132). -/

namespace Sys2Proof.Machine

variable {s t : State}

/-! ## The five causes -/

theorem execute_of_not_ok {w : Word} (h : ∀ i, decode w ≠ .ok i) (s : State) :
    execute w s = .next (s.record .illegal) := by
  cases hw : decode w with
  | ok i => exact absurd hw (h i)
  | error e => exact execute_error s hw

theorem exec_configOn_illegal {taps : BitVec 16} {width otap : BitVec 5} (h : ¬ LegalConfig s.params width taps otap)
    (u : UnitId) : exec (configOn u taps width otap) s = .next (s.record .param) := by
  rw [exec_configOn, configUnit_illegal s u h]

/-- A refused read records BUS and returns 0 (20_memory.md R42, R45). -/
theorem serve_read_refused {off : BitVec 6} {size : AccessSize} (h : admittedRead off size = none) (s : State) :
    serve (.read off size) s = .next ((s.record .bus).reply 0) :=
  congrArg _ (serveRead_refused s h)

/-- Settles O17: each cause's command or access completes with `State.record` of its code, which is the statement's
`failed` by definition. -/
theorem everyErrorRecordsTheFirstOnly : Obligations.EveryErrorRecordsTheFirstOnly := by
  unfold Obligations.EveryErrorRecordsTheFirstOnly
  intro s failed
  exact ⟨fun w h => execute_of_not_ok h s,
    fun u taps width otap h => exec_configOn_illegal h u,
    fun u hv => unreadyUnitsRaiseUnconf s u hv,
    fun id h => exec_prn_invalid h s,
    fun off size v h => serveWrite_refused s h v,
    fun off size h => serve_read_refused ((admittedRead_none_iff off size).2 h) s⟩

/-! ## What empties a record -/

/-- The word decodes to a CLEAR whose mask selects ERRCODE (42_control.md R121). -/
def ClearsErr (w : Word) : Prop := ∃ m, decode w = .ok (.clear m) ∧ m.getLsbD 1 = true

/-- The events that may empty ERRCODE (60_exceptions.md R132). -/
def EmptiesRecord (e : BusEvent) : Prop :=
  (∃ w, e = .transaction (.write 0 .word w) ∧ ClearsErr w) ∨ e = .reset ∨ ∃ w waiting, e = .resetDuring w waiting

theorem record_keeps_errcode (hs : s.errcode ≠ 0) (e : ErrCode) : (s.record e).errcode = s.errcode :=
  recorded_of_ne_zero e hs

theorem serveRead_keeps_errcode (hs : s.errcode ≠ 0) (off : BitVec 6) (size : AccessSize) :
    (serveRead off size s).errcode = s.errcode := by
  cases hr : admittedRead off size with
  | some r => rw [serveRead_admitted s hr, State.reply_errcode]
  | none => rw [serveRead_refused s hr, State.reply_errcode, record_keeps_errcode hs]

theorem clearRegs_errcode_cases (m : BitVec 3) (s : State) :
    (clearRegs m s).errcode = s.errcode ∨ (clearRegs m s).errcode = 0 ∧ m.getLsbD 1 = true := by
  by_cases hm : m.getLsbD 1 = true
  · exact .inr ⟨if_pos hm, hm⟩
  · exact .inl (if_neg hm)

theorem abandon_errcode (w : Word) (s : State) : (abandon w s).errcode = 0 := by
  cases hw : decode w with
  | ok i => rw [abandon_ok s hw, State.applyReset_errcode]
  | error e => rw [abandon_error s hw, State.applyReset_errcode]

/-- A word keeps a recorded error, or is a CLEAR of ERRCODE and empties it. -/
theorem execute_errcode_cases (hs : s.errcode ≠ 0) {w : Word} (ht : execute w s = .next t) :
    t.errcode = s.errcode ∨ t.errcode = 0 ∧ ClearsErr w := by
  cases hw : decode w with
  | error e =>
    rw [execute_error s hw] at ht
    cases ht
    exact .inl (record_keeps_errcode hs .illegal)
  | ok i =>
    rw [execute_ok s hw] at ht
    by_cases hi : ∃ m, i = .clear m
    · obtain ⟨m, rfl⟩ := hi
      cases (exec_clear s m).symm.trans ht
      exact (clearRegs_errcode_cases m s).imp_right fun ⟨h0, hm⟩ => ⟨h0, m, hw, hm⟩
    · obtain ⟨t', ht', hkept⟩ := exec_keeps_errcode hs (not_exists.1 hi)
      cases ht'.symm.trans ht
      exact .inl hkept

theorem serveWrite_errcode_cases (hs : s.errcode ≠ 0) {off : BitVec 6} {size : AccessSize} {w : Word}
    (ht : serveWrite off size w s = .next t) :
    t.errcode = s.errcode ∨ t.errcode = 0 ∧ EmptiesRecord (.transaction (.write off size w)) := by
  by_cases hcmd : size = .word ∧ off = 0
  · obtain ⟨rfl, rfl⟩ := hcmd
    rw [serveWrite_cmd] at ht
    exact (execute_errcode_cases hs ht).imp_right fun ⟨h0, hw⟩ => ⟨h0, .inl ⟨w, rfl, hw⟩⟩
  · rw [serveWrite_refused s hcmd] at ht
    cases ht
    exact .inl (record_keeps_errcode hs .bus)

theorem serveEvent_errcode_cases (hs : s.errcode ≠ 0) {e : BusEvent} (ht : serveEvent e s = .next t) :
    t.errcode = s.errcode ∨ t.errcode = 0 ∧ EmptiesRecord e := by
  cases e with
  | transaction tr =>
    cases tr with
    | write off size w => exact serveWrite_errcode_cases hs ht
    | read off size =>
      cases ht
      exact .inl (serveRead_keeps_errcode hs off size)
  | reset =>
    cases ht
    exact .inr ⟨State.applyReset_errcode s, .inr (.inl rfl)⟩
  | resetDuring w waiting =>
    cases ht
    exact .inr ⟨abandon_errcode w s, .inr (.inr ⟨w, waiting, rfl⟩)⟩

/-- Settles O18: an idle step keeps the state, and a served event is one of `serveEvent_errcode_cases`. -/
theorem onlyClearErrOrResetEmptiesTheRecord : Obligations.OnlyClearErrOrResetEmptiesTheRecord := by
  unfold Obligations.OnlyClearErrOrResetEmptiesTheRecord
  intro s t hs ht
  cases hb : s.bus with
  | nil =>
    cases (step_idle s hb).symm.trans ht
    exact .inl rfl
  | cons e rest =>
    rw [step_event s hb] at ht
    have hcases := serveEvent_errcode_cases (s := { s with bus := rest }) hs ht
    exact hcases.imp_right fun ⟨h0, he⟩ =>
      ⟨h0, e, rest, rfl, he.imp_left fun ⟨w, hw, m, hclear⟩ => ⟨w, m, hw, hclear⟩⟩

end Sys2Proof.Machine
end

section
/-! PROOF. The state RESET leaves and what each command and each admitted read does there (70_reset_and_hazards.md R150,
R152). -/

namespace Sys2Proof.Machine

variable {s : State}

/-! ## The reset state -/

/-- RESET unconfigures every unit (70_reset_and_hazards.md R150). -/
@[simp] theorem State.unit_applyReset (s : State) (u : UnitId) : s.applyReset.unit u = LfsrUnit.unconfigured := by
  cases u <;> rfl

/-- Settles O48: the event is served by `State.applyReset`, whose fields are the reset values. -/
theorem resetRestoresTheResetValues : Obligations.ResetRestoresTheResetValues := by
  unfold Obligations.ResetRestoresTheResetValues
  intro s rest hb
  exact ⟨_, step_event s hb, State.unit_applyReset _, State.applyReset_shift _, State.applyReset_chipcnt _,
    State.applyReset_prnsel _, State.applyReset_errcode _, State.applyReset_stream _⟩

/-! ## Commands and reads on fields that hold their reset values -/

/-- CONFIG on a unit never configured leaves VALUE 0: there is nothing to truncate (40_lfsr_engine.md R85). -/
theorem LfsrUnit.configured_unconfigured (taps : BitVec 16) (width otap : BitVec 5) :
    LfsrUnit.unconfigured.configured taps width otap =
      { valid := true, width := width, taps := taps, otap := otap, value := 0 } := by
  have hvalue : 0 &&& widthMask width.toNat = 0 := BitVec.zero_and
  rw [configured, unconfigured, hvalue]

/-- CLEAR changes nothing where the registers it can select hold 0 (42_control.md R121). -/
theorem clearRegs_of_zero (hshift : s.shift = 0) (herr : s.errcode = 0) (hchip : s.chipcnt = 0) (m : BitVec 3) :
    clearRegs m s = s := by
  rw [clearRegs, ← hshift, ← herr, ← hchip, ite_self, ite_self, ite_self]

/-- A failed PRN only records its error where there is no configuration to discard (41_gold_generator.md R105). -/
theorem prnInvalid_of_unconfigured (hunits : ∀ u, s.unit u = LfsrUnit.unconfigured) (hprn : s.prnsel = 0) :
    prnInvalid s = s.record .prn := by
  have h0 : s.u0 = LfsrUnit.unconfigured := hunits .u0
  have h1 : s.u1 = LfsrUnit.unconfigured := hunits .u1
  have h2 : s.u2 = LfsrUnit.unconfigured := hunits .u2
  simp only [prnInvalid, State.record, h0, h1, h2, hprn]

/-- A word read at a readable offset is served with some register's value (20_memory.md R45). -/
theorem serve_read_readable {off : BitVec 6}
    (h : off ∈ [0x04#6, 0x08, 0x0C, 0x10, 0x14, 0x20, 0x24, 0x28, 0x2C, 0x30, 0x34]) (s : State) :
    ∃ v, serve (.read off .word) s = .next (s.reply v) := by
  cases hr : admittedRead off .word with
  | some r => exact ⟨_, congrArg _ (serveRead_admitted s hr)⟩
  | none => exact absurd ⟨rfl, h⟩ ((admittedRead_none_iff off .word).1 hr)

/-! ## Right after reset -/

/-- Settles O50: no unit is configured, so the unit commands fail their check (`unreadyUnitsRaiseUnconf`); the other
commands and the reads run as in any state, on fields that hold their reset values. -/
theorem afterResetUnitCommandsRaiseUnconf : Obligations.AfterResetUnitCommandsRaiseUnconf := by
  unfold Obligations.AfterResetUnitCommandsRaiseUnconf
  intro p r
  have hunits : ∀ u, r.unit u = LfsrUnit.unconfigured := State.unit_applyReset r
  have hunready (u : UnitId) := unreadyUnitsRaiseUnconf r u (congrArg LfsrUnit.valid (hunits u))
  refine ⟨fun u => (hunready u).1, fun u => (hunready u).2.1, (hunready .u0).2.2, exec_nop r, fun m => ?_,
    fun u taps width otap hlegal => ?_, fun u taps width otap hillegal => exec_configOn_illegal hillegal u,
    fun id hlo hhi => ⟨_, exec_prn_valid ⟨hlo, hhi⟩ r, rfl, rfl, rfl, rfl, rfl⟩, fun id hid => ?_,
    fun off hoff => serve_read_readable hoff r⟩
  · rw [exec_clear, clearRegs_of_zero rfl rfl rfl]
  · rw [exec_configOn, configUnit_legal r u hlegal, hunits, LfsrUnit.configured_unconfigured]
  · rw [exec_prn_invalid hid, prnInvalid_of_unconfigured hunits rfl]
    rfl

end Sys2Proof.Machine
end

section
/-! PROOF. The encoder against the decoder (30_encoding.md section 1), the byte view of a word (20_memory.md R46), the
words of the pseudo-commands (30_encoding.md R70), and the table word as the next command (log 12). -/

namespace Sys2Proof.Machine

variable {w : Word}

/-! ## The fields of an encoded word -/

@[simp] theorem fieldTaps_encodeC (unit : BitVec 2) (taps : BitVec 16) (width otap : BitVec 5) :
    fieldTaps (encodeC unit taps width otap) = taps := by
  apply BitVec.eq_of_toNat_eq
  rw [fieldTaps_toNat, encodeC_toNat]
  omega

@[simp] theorem fieldWidth_encodeC (unit : BitVec 2) (taps : BitVec 16) (width otap : BitVec 5) :
    fieldWidth (encodeC unit taps width otap) = width := by
  apply BitVec.eq_of_toNat_eq
  rw [fieldWidth_toNat, encodeC_toNat]
  omega

@[simp] theorem fieldOtap_encodeC (unit : BitVec 2) (taps : BitVec 16) (width otap : BitVec 5) :
    fieldOtap (encodeC unit taps width otap) = otap := by
  apply BitVec.eq_of_toNat_eq
  rw [fieldOtap_toNat, encodeC_toNat]
  omega

@[simp] theorem fieldImm_encodeU (op : BitVec 4) (unit : BitVec 2) (imm : BitVec 16) :
    fieldImm (encodeU op unit imm) = imm := by
  apply BitVec.eq_of_toNat_eq
  rw [fieldImm_toNat, encodeU_toNat]
  omega

@[simp] theorem fieldId_encodeP (id : BitVec 8) : fieldId (encodeP id) = id := by
  apply BitVec.eq_of_toNat_eq
  rw [fieldId_toNat, encodeP_toNat]
  omega

@[simp] theorem fieldImm_encodeG (imm : BitVec 16) : fieldImm (encodeG imm) = imm := by
  apply BitVec.eq_of_toNat_eq
  rw [fieldImm_toNat, encodeG_toNat]
  omega

@[simp] theorem fieldMask_encodeK (mask : BitVec 3) : fieldMask (encodeK mask) = mask := by
  apply BitVec.eq_of_toNat_eq
  rw [fieldMask_toNat, encodeK_toNat]
  omega

/-! ## Each shape of command survives encoding -/

theorem decode_encode_configOn (u : UnitId) (taps : BitVec 16) (width otap : BitVec 5) :
    decode (encode (configOn u taps width otap)) = .ok (configOn u taps width otap) := by
  rw [encode_configOn, decode_config (u := u) (by rw [encodeC_toNat]; omega), fieldTaps_encodeC, fieldWidth_encodeC,
    fieldOtap_encodeC]

theorem decode_encode_seedOn (u : UnitId) (v : BitVec 16) : decode (encode (seedOn u v)) = .ok (seedOn u v) := by
  have hrow : (encodeU 2 (unitCode u) v).toNat / 2 ^ 16 = 0x2000 + 0x400 * (unitCode u).toNat := by
    rw [encodeU_toNat, show (2 : BitVec 4).toNat = 2 from rfl]
    omega
  rw [encode_seedOn, decode_seed hrow, fieldImm_encodeU]

theorem decode_encode_stepOn (u : UnitId) (v : BitVec 16) :
    decode (encode (stepOn u v.toNat)) = .ok (stepOn u v.toNat) := by
  have hrow : (encodeU 3 (unitCode u) v).toNat / 2 ^ 16 = 0x3000 + 0x400 * (unitCode u).toNat := by
    rw [encodeU_toNat, show (3 : BitVec 4).toNat = 3 from rfl]
    omega
  rw [encode_stepOn, decode_step hrow, fieldImm_encodeU]

theorem decode_encode_prn (id : BitVec 8) : decode (encode (.prn id)) = .ok (.prn id) := by
  show decode (encodeP id) = _
  rw [decode_prn (by rw [encodeP_toNat]; omega), fieldId_encodeP]

theorem decode_encode_gold (v : BitVec 16) : decode (encode (.gold v.toNat)) = .ok (.gold v.toNat) := by
  rw [encode_gold, decode_gold (by rw [encodeG_toNat]; omega), fieldImm_encodeG]

theorem decode_encode_clear (m : BitVec 3) : decode (encode (.clear m)) = .ok (.clear m) := by
  show decode (encodeK m) = _
  rw [decode_clear (by rw [encodeK_toNat]; omega), fieldMask_encodeK]

/-- A count that fits is the number of some IMM16 (30_encoding.md R64). -/
theorem exists_imm_of_countFits {n : Nat} (h : countFits n = true) : ∃ v : BitVec 16, n = v.toNat := by
  have hlt : n < 2 ^ 16 := of_decide_eq_true h
  exact ⟨BitVec.ofNat 16 n, by rw [BitVec.toNat_ofNat, Nat.mod_eq_of_lt hlt]⟩

theorem countFits_of_stepOn {u : UnitId} {n : Nat} (h : (stepOn u n).wellFormed = true) : countFits n = true := by
  cases u <;> exact h

/-- Settles O1: the word of each shape of command is of the shape's row, and its fields are the operands. -/
theorem decodeOfEncodeIsTheCommand : Obligations.DecodeOfEncodeIsTheCommand := by
  unfold Obligations.DecodeOfEncodeIsTheCommand
  intro i hwf
  obtain rfl | ⟨u, taps, width, otap, rfl⟩ | ⟨u, v, rfl⟩ | ⟨u, n, rfl⟩ | ⟨id, rfl⟩ | ⟨n, rfl⟩ | ⟨m, rfl⟩ :=
    Instr.shapes i
  · exact decode_nop rfl
  · exact decode_encode_configOn u taps width otap
  · exact decode_encode_seedOn u v
  · obtain ⟨v, rfl⟩ := exists_imm_of_countFits (countFits_of_stepOn hwf)
    exact decode_encode_stepOn u v
  · exact decode_encode_prn id
  · obtain ⟨v, rfl⟩ := exists_imm_of_countFits hwf
    exact decode_encode_gold v
  · exact decode_encode_clear m

/-- Settles O2: in each format the fields and the reserved zeros make up the word again (`encode_of_decode`). -/
theorem decodedWordReencodes : Obligations.DecodedWordReencodes := by
  unfold Obligations.DecodedWordReencodes
  intro w i h
  exact encode_of_decode h

/-! ## The byte view of a word -/

/-- A word is put together from its four bytes, lowest first (20_memory.md R46). -/
theorem wordOfBytes_extract (w : Word) :
    wordOfBytes (w.extractLsb' 0 8) (w.extractLsb' 8 8) (w.extractLsb' 16 8) (w.extractLsb' 24 8) = w := by
  apply BitVec.eq_of_toNat_eq
  simp only [wordOfBytes, toNat_append_add, field_toNat]
  omega

theorem decodeBytes_bytesOfWord (w : Word) (rest : List Byte) :
    decodeBytes (bytesOfWord w ++ rest) = (decode w).map fun i => (i, rest) := by
  conv_rhs => rw [← wordOfBytes_extract w]
  rfl

/-- Settles O6: the bytes of the view in order, and the word put together from them (`wordOfBytes_extract`). -/
theorem byteViewIsLittleEndian : Obligations.ByteViewIsLittleEndian := by
  unfold Obligations.ByteViewIsLittleEndian
  refine ⟨fun w k hk => ?_, fun w i rest h => ?_, fun w e rest h => ?_⟩
  · interval_cases k <;> rfl
  · rw [decodeBytes_bytesOfWord, h]
    rfl
  · rw [decodeBytes_bytesOfWord, h]
    rfl

/-! ## The pseudo-commands -/

/-- A well-formed line of commands is one CMD write per command, in order (30_encoding.md R69). -/
theorem events_of_commands {l : AsmLine} {is : List Instr} (hwf : l.wellFormed = true) (hc : l.commands = some is) :
    l.events = some (is.map fun i => cmdWrite (encode i)) := by
  have hmap : l.commands.map (·.map fun i => cmdWrite (encode i)) = some (is.map fun i => cmdWrite (encode i)) := by
    rw [hc, Option.map_some]
  unfold AsmLine.events
  rw [if_pos hwf]
  cases l with
  | wr off v => cases hc
  | rd off => cases hc
  | _ => exact hmap

theorem unitNamed_unitCode (u : UnitId) : unitNamed (unitCode u).toNat = some u := by cases u <;> rfl

/-- A unit's code and operands in range fit a CONFIG line (30_encoding.md R69). -/
theorem configOperandsFit_unitCode (u : UnitId) {taps : List Nat} {w o : Nat}
    (htaps : ∀ p ∈ taps, 1 ≤ p ∧ p ≤ 16) (hw : w < 32) (ho : o < 32) :
    configOperandsFit (unitCode u).toNat taps w o = true := by
  have hu : (unitCode u).toNat < 3 := by cases u <;> decide
  simpa [configOperandsFit, hu, hw, ho] using htaps

theorem events_gen (u : UnitId) {taps : List Nat} {w o v n : Nat} (htaps : ∀ p ∈ taps, 1 ≤ p ∧ p ≤ 16) (hw : w < 32)
    (ho : o < 32) (hv : v < 65536) (hn : n < 65536) :
    (AsmLine.gen (unitCode u).toNat taps w o v n).events =
      some ([asmConfig u taps w o, seedOn u (BitVec.ofNat 16 v), stepOn u n].map fun i => cmdWrite (encode i)) := by
  apply events_of_commands
  · simp [AsmLine.wellFormed, configOperandsFit_unitCode u htaps hw ho, countFits, hv, hn]
  · rw [AsmLine.commands, unitNamed_unitCode, Option.map_some]

/-- Settles O7: each line is well-formed and stands for the commands listed (`events_of_commands`). -/
theorem pseudoCommandsExpand : Obligations.PseudoCommandsExpand := by
  unfold Obligations.PseudoCommandsExpand
  refine ⟨fun id hid => ?_, by decide, by decide, by decide,
    fun u taps w o v n htaps hw ho hv hn => events_gen u htaps hw ho hv hn⟩
  have hwf : (AsmLine.getcode id).wellFormed = true := decide_eq_true hid
  exact events_of_commands hwf rfl

/-! ## The table word as the next command -/

theorem decode_of_decodeTableWord {n : Nat} {i : Instr} (hn : n < 2 ^ 32) (h : decodeTableWord 32 n = some i) :
    decode (BitVec.ofNat 32 n) = .ok i := by
  have hbytes := decodeBytes_bytesOfWord (BitVec.ofNat 32 n) []
  rw [List.append_nil] at hbytes
  rw [decodeTableWord, if_pos le_rfl, Nat.mod_eq_of_lt hn, hbytes] at h
  cases hd : decode (BitVec.ofNat 32 n) with
  | error e => rw [hd] at h; cases h
  | ok j => rw [hd] at h; cases h; rfl

/-- Settles O9: the placed word is the next CMD write, and it decodes as the table's reading of it. -/
theorem fetchWordRunsNext : Obligations.FetchWordRunsNext := by
  unfold Obligations.FetchWordRunsNext
  intro s n i hn h
  have hdecode : decode (BitVec.ofNat 32 (n % 2 ^ 32)) = .ok i := by
    rw [Nat.mod_eq_of_lt hn]
    exact decode_of_decodeTableWord hn h
  have hstep := (stepRunsTheDecodedCommand (s.withFetchWord 32 n) (BitVec.ofNat 32 (n % 2 ^ 32)) s.bus rfl).2 i hdecode
  exact hstep

end Sys2Proof.Machine
end

section
/-! PROOF. The register window: what the readable registers show of the state, reads, the word that re-applies a unit's
configuration, and which accesses arrive (20_memory.md sections 1 to 4; 60_exceptions.md R144, R145). -/

namespace Sys2Proof.Machine

variable {s t : State}

/-! ## Events -/

/-- Settles O10: with no event a step is idle. -/
theorem idleCoreKeepsItsState : Obligations.IdleCoreKeepsItsState := by
  unfold Obligations.IdleCoreKeepsItsState
  intro s hb
  exact step_idle s hb

/-- A word read of a readable register returns its value and takes the event off the schedule. -/
theorem step_read {off : BitVec 6} {r : RegName} {rest : List BusEvent}
    (hb : s.bus = .transaction (.read off .word) :: rest) (hr : admittedRead off .word = some r) :
    step s = .next { s with bus := rest, reads := s.reads ++ [readReg r s] } := by
  rw [step_event s hb]
  exact congrArg _ (serveRead_admitted _ hr)

/-- No register's value depends on the schedule or on the values read before (20_memory.md R48). -/
theorem readReg_withReads (r : RegName) (s : State) (bus : List BusEvent) (reads : List Word) :
    readReg r { s with bus := bus, reads := reads } = readReg r s := by
  cases r with
  | ucfg u => cases u <;> rfl
  | uval u => cases u <;> rfl
  | _ => rfl

theorem run_two {s' : State} (h : step s = .next s') (h' : step s' = .next t) :
    Host.Core.run core 2 s = .next t := by
  have hcore : core.step = step := rfl
  simp only [Host.Core.run, hcore, h, h']

/-- Settles O16: both reads are admitted as one register, whose value the first read leaves (`readReg_withReads`). -/
theorem admittedReadsAreIdempotent : Obligations.AdmittedReadsAreIdempotent := by
  unfold Obligations.AdmittedReadsAreIdempotent
  intro s off rest hoff hb
  cases hr : admittedRead off .word with
  | none => exact absurd ⟨rfl, hoff⟩ ((admittedRead_none_iff off .word).1 hr)
  | some r =>
    refine ⟨readReg r s, ?_⟩
    have hsecond := step_read (s := { s with
      bus := .transaction (.read off .word) :: rest, reads := s.reads ++ [readReg r s] }) rfl hr
    rw [readReg_withReads, List.append_assoc] at hsecond
    exact run_two (step_read hb hr) hsecond

/-! ## Host accesses at absolute addresses -/

theorem windowOffset_inside {addr : Nat} (hlo : Config.base ≤ addr) (hhi : addr ≤ Config.base + 63) :
    windowOffset addr = some (BitVec.ofNat 6 (addr - Config.base)) := if_pos ⟨hlo, hhi⟩

theorem windowOffset_outside {addr : Nat} (h : addr < Config.base ∨ Config.base + 63 < addr) :
    windowOffset addr = none := if_neg (by omega)

/-- Settles O13: BASE's form, and the two outcomes of the window's test on the first byte. -/
theorem onlyTheWindowReachesTheCore : Obligations.OnlyTheWindowReachesTheCore := by
  unfold Obligations.OnlyTheWindowReachesTheCore
  refine ⟨Nat.mul_mod_right 64 Config.baseBlock, fun s addr size v => ⟨fun hlo hhi => ?_, fun h => ?_⟩⟩
  · have hoff : (BitVec.ofNat 6 (addr - Config.base)).toNat = addr - Config.base := by
      rw [BitVec.toNat_ofNat]
      omega
    refine ⟨_, hoff, ?_, ?_⟩
    · rw [hostWrite, windowOffset_inside hlo hhi]
      rfl
    · rw [hostRead, windowOffset_inside hlo hhi]
      rfl
  · rw [hostWrite, hostRead, windowOffset_outside h]
    exact ⟨rfl, rfl⟩

/-! ## What the registers show -/

theorem errcode_eq_of_statusWord (h : statusWord s = statusWord t) : s.errcode = t.errcode := by
  have hnum := congrArg BitVec.toNat h
  simp only [statusWord, toNat_append_add] at hnum
  exact BitVec.eq_of_toNat_eq (by omega)

theorem wmax_eq_of_infoWord {p q : Params} (h : infoWord p = infoWord q) : p.wmax = q.wmax := by
  have hnum := congrArg BitVec.toNat h
  simp only [infoWord, toNat_append_add] at hnum
  exact BitVec.eq_of_toNat_eq (by omega)

theorem setWidth_inj {n m : Nat} (h : n ≤ m) {a b : BitVec n} (hab : a.setWidth m = b.setWidth m) : a = b := by
  have hnum := congrArg BitVec.toNat hab
  rw [BitVec.toNat_setWidth_of_le h, BitVec.toNat_setWidth_of_le h] at hnum
  exact BitVec.eq_of_toNat_eq hnum

/-- UCFG and UVAL together show every field of a unit (20_memory.md R43). -/
theorem LfsrUnit.eq_of_ucfgWord_of_value {x y : LfsrUnit} (hcfg : ucfgWord x = ucfgWord y)
    (hval : x.value.setWidth 32 = y.value.setWidth 32) : x = y := by
  have hnum := congrArg BitVec.toNat hcfg
  simp only [ucfgWord, toNat_append_add, BitVec.toNat_ofBool] at hnum
  have hvalid : x.valid = y.valid := Bool.eq_iff_iff.2 (by rw [← Bool.toNat_eq_one, ← Bool.toNat_eq_one]; omega)
  have htaps : x.taps.toNat = y.taps.toNat := by omega
  have hwidth : x.width.toNat = y.width.toNat := by omega
  have hotap : x.otap.toNat = y.otap.toNat := by omega
  obtain ⟨valid, width, taps, otap, value⟩ := x
  obtain ⟨valid', width', taps', otap', value'⟩ := y
  simp only [LfsrUnit.mk.injEq]
  exact ⟨hvalid, BitVec.eq_of_toNat_eq hwidth, BitVec.eq_of_toNat_eq htaps,
    BitVec.eq_of_toNat_eq hotap, setWidth_inj (by decide) hval⟩

/-- Settles O15: each register's word gives back the fields it is made of. -/
theorem readoutDeterminesTheCore : Obligations.ReadoutDeterminesTheCore := by
  unfold Obligations.ReadoutDeterminesTheCore
  intro s t h
  have hreg : ∀ r ∈ readableRegs, readReg r s = readReg r t := List.map_inj_left.1 h
  have hunit (u : UnitId) (hcfg : .ucfg u ∈ readableRegs) (hval : .uval u ∈ readableRegs) : s.unit u = t.unit u :=
    LfsrUnit.eq_of_ucfgWord_of_value (hreg (.ucfg u) hcfg) (hreg (.uval u) hval)
  exact ⟨hunit .u0 (by decide) (by decide), hunit .u1 (by decide) (by decide), hunit .u2 (by decide) (by decide),
    hreg .shift (by decide), setWidth_inj (by decide) (hreg .chipcnt (by decide)),
    setWidth_inj (by decide) (hreg .prnsel (by decide)), errcode_eq_of_statusWord (hreg .status (by decide)),
    wmax_eq_of_infoWord (hreg .info (by decide))⟩

/-! ## UCFG read back -/

/-- Opcode 1, a unit's code and UCFG[25:0] make up the CONFIG word of the unit's own fields (20_memory.md R43). -/
theorem ucfg_readBack_eq_encode (u : UnitId) (x : LfsrUnit) :
    1#4 ++ unitCode u ++ (ucfgWord x).extractLsb' 0 26 = encode (configOn u x.taps x.width x.otap) := by
  apply BitVec.eq_of_toNat_eq
  rw [encode_configOn, encodeC_toNat]
  simp only [toNat_append_add, field_toNat, ucfgWord, BitVec.toNat_ofNat]
  omega

/-- CONFIG of a legal unit with its own fields changes nothing: its VALUE already fits its width
(40_lfsr_engine.md R85). -/
theorem LfsrUnit.configured_self {wmax : BitVec 5} {x : LfsrUnit} (h16 : wmax.toNat ≤ 16) (h : UnitLegal wmax x)
    (hvalid : x.valid = true) : x.configured x.taps x.width x.otap = x := by
  obtain ⟨-, hW, -, -, -, -, hv⟩ := h.1 hvalid
  have hvalue : x.value &&& widthMask x.width.toNat = x.value := by
    apply BitVec.eq_of_toNat_eq
    rw [and_widthMask_toNat _ (hW.trans h16), Nat.mod_eq_of_lt hv]
  rw [configured, hvalue, ← hvalid]

/-- Settles O14: the word decodes to CONFIG of the unit's own fields, which are legal and leave the unit as it is. -/
theorem ucfgReadBackChangesNothing : Obligations.UcfgReadBackChangesNothing := by
  unfold Obligations.UcfgReadBackChangesNothing
  intro s u hinv hvalid
  have hlegal := hinv.unitLegal u
  obtain ⟨h1, hW, htaps, hshift, ho1, hoW, -⟩ := hlegal.1 hvalid
  have hword : 1#4 ++ unitCode u ++ (readReg (.ucfg u) s).extractLsb' 0 26 = _ := ucfg_readBack_eq_encode u (s.unit u)
  rw [hword, execute_ok s (decode_encode_configOn u _ _ _), exec_configOn,
    configUnit_legal s u ⟨h1, hW, htaps, hshift, ho1, hoW⟩, LfsrUnit.configured_self hinv.wmax_le hlegal hvalid,
    State.setUnit_self]

end Sys2Proof.Machine
end

section
/-! PROOF. CONFIG, SEED and STEP as whole commands: the values they load, the source's bits and register, what they
leave alone, and the period of a Gold register (40_lfsr_engine.md). -/

namespace Sys2Proof.Machine

variable {s t : State} {u : UnitId}

/-! ## SEED -/

theorem exec_seedOn_valid (hv : (s.unit u).valid = true) (v : BitVec 16) :
    exec (seedOn u v) s = .next (s.setUnit u ((s.unit u).seeded v)) := by
  rw [exec_seedOn, seedUnit_valid hv]

/-- SEED loads a legal configured unit with the value modulo 2^WIDTH (40_lfsr_engine.md R87). -/
theorem exec_seedOn_truncates (hinv : Inv s) (hv : (s.unit u).valid = true) (v : BitVec 16) :
    ∃ x : BitVec 16, x.toNat = v.toNat % 2 ^ (s.unit u).width.toNat ∧
      exec (seedOn u v) s = .next (s.setUnit u { s.unit u with value := x }) := by
  obtain ⟨-, hW, -⟩ := (hinv.unitLegal u).1 hv
  exact ⟨_, and_widthMask_toNat v (hW.trans hinv.wmax_le), exec_seedOn_valid hv v⟩

/-- Settles O22: SEED on each of the three units (`exec_seedOn_truncates`). -/
theorem seedLoadsTheTruncatedValue : Obligations.SeedLoadsTheTruncatedValue := by
  unfold Obligations.SeedLoadsTheTruncatedValue
  intro s v hinv
  exact ⟨fun h0 => exec_seedOn_truncates (u := .u0) hinv h0 v, fun h1 => exec_seedOn_truncates (u := .u1) hinv h1 v,
    fun h2 => exec_seedOn_truncates (u := .u2) hinv h2 v⟩

/-! ## STEP against the source's engine -/

section
variable {wmax : BitVec 5} {x : LfsrUnit} (h16 : wmax.toNat ≤ 16) (h : UnitLegal wmax x) (hvalid : x.valid = true)
include h hvalid

theorem LfsrUnit.value_afterSteps_lt (n : Nat) : (x.afterSteps n).value.toNat < 2 ^ x.width.toNat := by
  obtain ⟨hvalid', hwidth, -, -⟩ := afterSteps_fields (x := x) n
  obtain ⟨-, -, -, -, -, -, hlt⟩ := (h.afterSteps hvalid n).1 (hvalid'.trans hvalid)
  rwa [hwidth] at hlt

include h16

/-- The register after n steps is the one the source's engine reaches (40_lfsr_engine.md R82, R89). -/
theorem LfsrUnit.srcRegister_afterSteps (n : Nat) :
    srcRegister x.width.toNat (x.afterSteps n).value.toNat =
      srcAfter (tapPositions x) n (srcRegister x.width.toNat x.value.toNat) := by
  induction n generalizing x with
  | zero => rfl
  | succ n ih =>
    obtain ⟨h1, hW, -, -, -, -, hv⟩ := h.1 hvalid
    rw [srcAfter, ← srcRegister_nextValue (.refl _) h1 (hW.trans h16) hv, afterSteps_succ]
    exact ih (h.stepped hvalid) hvalid

end

/-- Settles O25: the loop as a whole (`stepRun_eq`), whose bits and register are the source's. -/
theorem stepEmitsTheSourceBits : Obligations.StepEmitsTheSourceBits := by
  unfold Obligations.StepEmitsTheSourceBits
  intro s u n hinv hvalid x bits
  have hlegal : UnitLegal s.params.wmax x := hinv.unitLegal u
  have hbits : x.outputs n = bits := LfsrUnit.outputs_eq_generate hinv.wmax_le hlegal hvalid (.refl _) n
  refine ⟨(x.afterSteps n).value, LfsrUnit.value_afterSteps_lt hlegal hvalid n,
    LfsrUnit.srcRegister_afterSteps hinv.wmax_le hlegal hvalid n, ?_⟩
  rw [exec_stepOn_valid hvalid, stepRun_eq, ← hbits, ← LfsrUnit.afterSteps_eq_withValue]

/-! ## The period of a Gold register -/

/-- Settles O30: STEP leaves the unit after k steps, which is at 0x3FF for the multiples of 1023 alone. -/
theorem registersHavePeriod1023 : Obligations.RegistersHavePeriod1023 := by
  unfold Obligations.RegistersHavePeriod1023
  intro s u k hvalid hwidth htaps hvalue h1 hk
  refine ⟨_, exec_stepOn_valid hvalid k, ?_⟩
  rw [unit_stepRun, LfsrUnit.value_afterSteps_eq_iff hwidth htaps hvalue]
  omega

/-! ## What the engine's commands leave alone -/

/-- What a command on unit u leaves: the other units, CHIPCNT, PRNSEL, the parameters, the values read, the schedule and
the draw counter (40_lfsr_engine.md section 2). -/
def KeepsOthers (u : UnitId) (s t : State) : Prop :=
  (∀ u', u' ≠ u → t.unit u' = s.unit u') ∧ t.chipcnt = s.chipcnt ∧ t.prnsel = s.prnsel ∧ t.params = s.params ∧
    t.reads = s.reads ∧ t.bus = s.bus ∧ t.draws = s.draws

/-- The unit differs in VALUE at most. -/
def KeepsFields (u : UnitId) (s t : State) : Prop := ∃ v : BitVec 16, t.unit u = { s.unit u with value := v }

theorem keepsOthers_setUnit (s : State) (u : UnitId) (x : LfsrUnit) : KeepsOthers u s (s.setUnit u x) :=
  ⟨fun u' h => State.unit_setUnit_other s u u' x h, State.setUnit_chipcnt s u x, State.setUnit_prnsel s u x,
    State.setUnit_params s u x, State.setUnit_reads s u x, State.setUnit_bus s u x, State.setUnit_draws s u x⟩

theorem keepsOthers_record (s : State) (u : UnitId) (e : ErrCode) : KeepsOthers u s (s.record e) :=
  ⟨fun u' _ => State.unit_record s u' e, rfl, rfl, rfl, rfl, rfl, rfl⟩

theorem keepsOthers_stepRun (s : State) (u : UnitId) (n : Nat) : KeepsOthers u s (stepRun u n s) := by
  obtain ⟨-, hrest⟩ := keepsOthers_setUnit s u ((s.unit u).afterSteps n)
  refine ⟨fun u' h => stepRun_unit_other h n s, ?_⟩
  rw [stepRun_eq]
  exact hrest

theorem keepsFields_record (s : State) (u : UnitId) (e : ErrCode) : KeepsFields u s (s.record e) :=
  ⟨(s.unit u).value, State.unit_record s u e⟩

theorem keepsFields_stepRun (s : State) (u : UnitId) (n : Nat) : KeepsFields u s (stepRun u n s) :=
  ⟨_, (unit_stepRun s u n).trans (LfsrUnit.afterSteps_eq_withValue _ n)⟩

theorem configUnit_frame (s : State) (u : UnitId) (taps : BitVec 16) (width otap : BitVec 5) :
    KeepsOthers u s (configUnit u taps width otap s) ∧ (configUnit u taps width otap s).stream = s.stream ∧
      (configUnit u taps width otap s).shift = s.shift := by
  by_cases hc : LegalConfig s.params width taps otap
  · rw [configUnit_legal s u hc]
    exact ⟨keepsOthers_setUnit s u _, State.setUnit_stream s u _, State.setUnit_shift s u _⟩
  · rw [configUnit_illegal s u hc]
    exact ⟨keepsOthers_record s u .param, rfl, rfl⟩

theorem seedUnit_frame (s : State) (u : UnitId) (v : BitVec 16) :
    KeepsOthers u s (seedUnit u v s) ∧ KeepsFields u s (seedUnit u v s) ∧ (seedUnit u v s).stream = s.stream ∧
      (seedUnit u v s).shift = s.shift := by
  cases hv : (s.unit u).valid with
  | true =>
    rw [seedUnit_valid hv]
    exact ⟨keepsOthers_setUnit s u _, ⟨_, State.unit_setUnit_same s u _⟩, State.setUnit_stream s u _,
      State.setUnit_shift s u _⟩
  | false =>
    rw [seedUnit_invalid hv]
    exact ⟨keepsOthers_record s u .unconf, keepsFields_record s u .unconf, rfl, rfl⟩

theorem stepCommand_frame (s : State) (u : UnitId) (n : Nat) :
    KeepsOthers u s (stepCommand u n s) ∧ KeepsFields u s (stepCommand u n s) := by
  cases hv : (s.unit u).valid with
  | true =>
    rw [stepCommand_valid hv]
    exact ⟨keepsOthers_stepRun s u n, keepsFields_stepRun s u n⟩
  | false =>
    rw [stepCommand_invalid hv]
    exact ⟨keepsOthers_record s u .unconf, keepsFields_record s u .unconf⟩

/-- Settles O31: the frame of each command, where it runs and where it raises its error. -/
theorem engineCommandsFrame : Obligations.EngineCommandsFrame := by
  unfold Obligations.EngineCommandsFrame
  intro s t u kept onlyValue
  refine ⟨fun taps width otap ht => ?_, fun v ht => ?_, fun n ht => ?_⟩
  · cases (exec_configOn s u taps width otap).symm.trans ht
    exact configUnit_frame s u taps width otap
  · cases (exec_seedOn s u v).symm.trans ht
    exact seedUnit_frame s u v
  · cases (exec_stepOn s u n).symm.trans ht
    exact stepCommand_frame s u n

end Sys2Proof.Machine
end

section
/-! PROOF. PRN's table and GOLD as whole commands: the output taps loaded, the chips of three legal units, and the last
ten bits in SHIFT (41_gold_generator.md sections 1 to 3; 10_state.md R24). -/

namespace Sys2Proof.Machine

variable {s : State}

/-! ## The ROM entries PRN loads -/

/-- PRN of an identifier given as a number. -/
theorem exec_prn_ofNat {id : Nat} (h : 1 ≤ id ∧ id ≤ 37) (s : State) :
    exec (.prn (BitVec.ofNat 8 id)) s =
      .next (prnLoad (BitVec.ofNat 8 id) (s.params.tapAssign[id - 1]'(by omega)) s) := by
  have hid : (BitVec.ofNat 8 id).toNat = id := by
    rw [BitVec.toNat_ofNat]
    omega
  have hprn := exec_prn_valid (id := BitVec.ofNat 8 id) (by omega) s
  simpa only [hid] using hprn

theorem toNat_otap_goldVariable (o : BitVec 4) : (LfsrUnit.goldVariable o).otap.toNat = o.toNat :=
  BitVec.toNat_setWidth_of_le (by decide)

/-- Settles O34: identifier 1 loads entry 1, which is (2, 6) wherever the parameters are legal. -/
theorem prnOneSelectsTapsTwoAndSix : Obligations.PrnOneSelectsTapsTwoAndSix := by
  unfold Obligations.PrnOneSelectsTapsTwoAndSix
  intro s hp
  obtain ⟨-, -, -, hentry, -⟩ := hp
  have hprn : exec (.prn 1) s = .next (prnLoad 1 s.params.tapAssign[0] s) := exec_prn_ofNat (id := 1) (by decide) s
  rw [hentry] at hprn
  exact ⟨_, hprn, rfl, rfl, rfl⟩

/-- The reference table lists taps a and b for the identifier. -/
def ReferenceEntry (row : Nat × Nat × Nat) : Prop :=
  ∃ h : 1 ≤ row.1 ∧ row.1 ≤ 37,
    (referenceTapAssign[row.1 - 1]'(by omega)).s1.toNat = row.2.1 ∧
      (referenceTapAssign[row.1 - 1]'(by omega)).s2.toNat = row.2.2

/-- Settles O35: each listed row is the reference table's entry, and PRN loads that entry's taps. -/
theorem referenceTableIsLoaded : Obligations.ReferenceTableIsLoaded := by
  unfold Obligations.ReferenceTableIsLoaded
  intro s id a b hp hmem
  have hrow : ReferenceEntry (id, a, b) := by
    revert hmem
    generalize (id, a, b) = row
    unfold ReferenceEntry
    revert row
    decide
  obtain ⟨hid, ha, hb⟩ := hrow
  have hprn := exec_prn_ofNat hid s
  simp only [hp] at hprn
  exact ⟨_, hprn, (toNat_otap_goldVariable _).trans ha, (toNat_otap_goldVariable _).trans hb⟩

/-! ## GOLD on three legal units -/

/-- The chips of three legal units are the combined source sequences (41_gold_generator.md R103). -/
theorem goldChips_eq_combineBits (hinv : Inv s) (h0 : s.u0.valid = true) (h1 : s.u1.valid = true)
    (h2 : s.u2.valid = true) (n : Nat) :
    goldChips n s.u0 s.u1 s.u2 =
      combineBits (generate s.u1.width.toNat (tapPositions s.u1) s.u1.otap.toNat s.u1.value.toNat n)
        (generate s.u2.width.toNat (tapPositions s.u2) s.u2.otap.toNat s.u2.value.toNat n)
        (generate s.u0.width.toNat (tapPositions s.u0) s.u0.otap.toNat s.u0.value.toNat n) := by
  have hseq (u : UnitId) (hv : (s.unit u).valid = true) :=
    LfsrUnit.outputs_eq_generate hinv.wmax_le (hinv.unitLegal u) hv (.refl _) n
  exact congr (congrArg₂ combineBits (hseq .u1 h1) (hseq .u2 h2)) (hseq .u0 h0)

/-- Settles O37: the loop as a whole (`goldRun_eq`), whose chips and registers are the source's. -/
theorem goldEmitsTheCombinedChips : Obligations.GoldEmitsTheCombinedChips := by
  unfold Obligations.GoldEmitsTheCombinedChips
  intro s n hinv h0 h1 h2 seq chips after
  have hafter (u : UnitId) (hv : (s.unit u).valid = true) : after (s.unit u) ((s.unit u).afterSteps n).value :=
    ⟨LfsrUnit.value_afterSteps_lt (hinv.unitLegal u) hv n,
      LfsrUnit.srcRegister_afterSteps hinv.wmax_le (hinv.unitLegal u) hv n⟩
  have hchips : goldChips n s.u0 s.u1 s.u2 = chips := goldChips_eq_combineBits hinv h0 h1 h2 n
  obtain ⟨-, -, -, -, hcount, -⟩ := hinv
  refine ⟨_, _, _, chipsCounted n s.chipcnt, hafter .u0 h0, hafter .u1 h1, hafter .u2 h2, chipsCounted_toNat hcount n,
    hchips ▸ length_goldChips n _ _ _, ?_⟩
  rw [exec_gold_ready h0 h1 h2, goldRun_eq, ← hchips]
  simp only [State.unit_u0, State.unit_u1, State.unit_u2, ← LfsrUnit.afterSteps_eq_withValue]

/-! ## The last ten bits in SHIFT -/

/-- Packing bits keeps congruence of what stood before. -/
theorem packed_modEq {m a b : Nat} (h : a ≡ b [MOD m]) (bits : List Bool) : packed a bits ≡ packed b bits [MOD m] := by
  induction bits generalizing a b with
  | nil => exact h
  | cons bit bits ih => exact ih ((h.mul_left 2).add_right _)

theorem packed_eq_add (acc : Nat) (bits : List Bool) : packed acc bits = acc * 2 ^ bits.length + packed 0 bits := by
  induction bits generalizing acc with
  | nil => simp [packed]
  | cons b bits ih =>
    show packed (2 * acc + b.toNat) bits = acc * 2 ^ (bits.length + 1) + packed (2 * 0 + b.toNat) bits
    rw [ih (2 * acc + b.toNat), ih (2 * 0 + b.toNat)]
    ring

/-- SHIFT is the packed bits modulo 2^32 (10_state.md R24). -/
theorem captureAll_modEq (c : BitVec 32) (bits : List Bool) :
    (captureAll c bits).toNat ≡ packed c.toNat bits [MOD 2 ^ 32] := by
  induction bits generalizing c with
  | nil => exact .refl _
  | cons b bits ih =>
    have hcaptured : (captured c b).toNat ≡ 2 * c.toNat + b.toNat [MOD 2 ^ 32] := by
      rw [captured_eq_ofNat, BitVec.toNat_ofNat]
      exact Nat.mod_modEq _ _
    exact (ih (captured c b)).trans (packed_modEq hcaptured bits)

/-- After ten bits or more SHIFT[9:0] is the last ten packed MSB-first, whatever SHIFT held (10_state.md section 3). -/
theorem captureAll_mod_1024 (c : BitVec 32) {bits : List Bool} (h : 10 ≤ bits.length) :
    (captureAll c bits).toNat % 1024 = firstTen (bits.drop (bits.length - 10)) := by
  generalize hlast : bits.drop (bits.length - 10) = last
  generalize hearly : captureAll c (bits.take (bits.length - 10)) = early
  have hsplit : captureAll c bits = captureAll early last := by
    rw [← hearly, ← hlast, ← captureAll_append, List.take_append_drop]
  have hlength : last.length = 10 := by
    rw [← hlast, List.length_drop]
    omega
  have hten : firstTen last = packed 0 last := by rw [firstTen_eq_packed, List.take_of_length_le hlength.le]
  have hmod : (captureAll early last).toNat % 1024 = packed early.toNat last % 1024 :=
    (captureAll_modEq early last).of_dvd (by decide : 1024 ∣ 2 ^ 32)
  have hlt := firstTen_lt last
  rw [hsplit, hmod, packed_eq_add, hlength, ← hten]
  omega

/-- The last ten entries of a stream that ends in at least ten entries of one run are that run's last ten bits. -/
theorem lastTen_of_append (stream : List StreamEntry) (src : StreamSource) {bits : List Bool} (h : 10 ≤ bits.length) :
    ((stream ++ entriesOf src bits).drop ((stream ++ entriesOf src bits).length - 10)).map (·.bit) =
      bits.drop (bits.length - 10) := by
  have hbits : (entriesOf src bits).map (·.bit) = bits := by simp [entriesOf, Function.comp_def]
  have hpos : (stream ++ entriesOf src bits).length - 10 = stream.length + (bits.length - 10) := by
    rw [List.length_append, length_entriesOf]
    omega
  rw [hpos, List.drop_length_add_append, List.map_drop, hbits]

/-- Settles O44: both commands append their bits to the stream and capture them in SHIFT (`captureAll_mod_1024`). -/
theorem shiftHoldsTheLastTenBits : Obligations.ShiftHoldsTheLastTenBits := by
  unfold Obligations.ShiftHoldsTheLastTenBits
  intro s n hn lastTen
  have hclear := exec_clear s 1
  have hheld {t : State} {stream : List StreamEntry} {src : StreamSource} {c : BitVec 32} {bits : List Bool}
      (hlength : bits.length = n) (hstream : t.stream = stream ++ entriesOf src bits)
      (hshift : t.shift = captureAll c bits) : t.shift.toNat % 1024 = lastTen t := by
    have hten : 10 ≤ bits.length := hn.trans hlength.ge
    rw [hshift, captureAll_mod_1024 c hten, ← lastTen_of_append stream src hten, ← hstream]
  refine ⟨fun u hv => ?_, fun h0 h1 h2 => ?_⟩
  · have hv' : ((clearRegs 1 s).unit u).valid = true := by cases u <;> exact hv
    refine ⟨_, by rw [execAll_cons s hclear, execAll_one _ _ (exec_stepOn_valid hv' n)], ?_⟩
    exact hheld (LfsrUnit.length_outputs n) (stepRun_stream _ u n) (by rw [stepRun_eq])
  · have hgold := exec_gold_ready (s := clearRegs 1 s) h0 h1 h2 n
    refine ⟨_, by rw [execAll_cons s hclear, execAll_one _ _ hgold], ?_⟩
    exact hheld (length_goldChips n _ _ _) (goldRun_stream n _) (goldRun_shift n _)

end Sys2Proof.Machine
end

section
/-! PROOF. The balance of the reference codes (41_gold_generator.md section 4). A register is a window on one sequence,
that of its last position: the bit at an earlier position arrives there later. So a code is the XOR of three shifts of
two sequences, each held as one number, and its 1s are counted there. -/

namespace Sys2Proof.Machine

variable {x : LfsrUnit}

/-! ## One sequence for all output taps -/

/-- The lowest bits of v, f v, f (f v), ... as the bits of one number, lowest first. -/
def lowBits (f : Nat → Nat) : Nat → Nat → Nat
  | 0, _ => 0
  | n + 1, v => v % 2 + 2 * lowBits f n (f v)

theorem testBit_lowBits (f : Nat → Nat) {n i : Nat} (h : i < n) (v : Nat) :
    (lowBits f n v).testBit i = (f^[i] v).testBit 0 := by
  induction n generalizing i v with
  | zero => omega
  | succ n ih =>
    cases i with
    | zero =>
      have hmod : lowBits f (n + 1) v % 2 = v % 2 := by
        rw [lowBits]
        omega
      rw [Nat.testBit_zero, hmod, ← Nat.testBit_zero]
      rfl
    | succ i =>
      have hdiv : lowBits f (n + 1) v / 2 = lowBits f n (f v) := by
        rw [lowBits]
        omega
      rw [Nat.testBit_succ, hdiv, ih (by omega), Function.iterate_succ_apply]

theorem LfsrUnit.outputs_eq_map (x : LfsrUnit) (n : Nat) :
    x.outputs n = (List.range n).map fun i => (x.afterSteps i).out := by
  induction n generalizing x with
  | zero => rfl
  | succ n ih =>
    rw [outputs_succ, ih, List.range_succ_eq_map, List.map_cons, List.map_map]
    rfl

section
variable {wmax : BitVec 5} (h16 : wmax.toNat ≤ 16) (h : UnitLegal wmax x) (hvalid : x.valid = true)
include h16 h hvalid

/-- A step moves each bit of VALUE but the lowest down by one, so bit m is the lowest after m steps
(40_lfsr_engine.md R82). -/
theorem LfsrUnit.getLsbD_afterSteps {m i : Nat} (hm : m + i < x.width.toNat) :
    (x.afterSteps m).value.getLsbD i = x.value.getLsbD (m + i) := by
  induction m generalizing x with
  | zero => rw [Nat.zero_add, afterSteps_zero]
  | succ m ih =>
    obtain ⟨h1, hW, -, -, -, -, hv⟩ := h.1 hvalid
    have hnext : x.stepped.value.getLsbD (m + i) = x.value.getLsbD (m + i + 1) := by
      rw [stepped_value, getLsbD_nextValue h1 hv (by omega), if_neg (by omega)]
    have hm' : m + i < x.stepped.width.toNat := (Nat.lt_succ_self _).trans (by rwa [Nat.succ_add] at hm)
    rw [afterSteps_succ, ih (h.stepped hvalid) hvalid hm', hnext, Nat.add_right_comm]

/-- The output tap samples the last position's sequence, WIDTH - OTAP steps ahead. -/
theorem LfsrUnit.out_afterSteps {n i : Nat} (hi : x.width.toNat - x.otap.toNat + i < n) :
    (x.afterSteps i).out =
      (lowBits (nextNumber x.width.toNat (tapPositions x)) n x.value.toNat).testBit
        (x.width.toNat - x.otap.toNat + i) := by
  obtain ⟨h1, hW, -, -, ho, -, hv⟩ := h.1 hvalid
  obtain ⟨hvalid', hwidth, -, hotap⟩ := afterSteps_fields (x := x) i
  have hlast := getLsbD_afterSteps h16 (h.afterSteps hvalid i) (hvalid'.trans hvalid) (i := 0)
    (m := x.width.toNat - x.otap.toNat) (by rw [hwidth]; omega)
  rw [out, tapBit_eq_getLsbD, hwidth, hotap, testBit_lowBits _ hi, ← toNat_value_afterSteps h1 (hW.trans h16) hv,
    BitVec.testBit_toNat, Nat.add_comm, afterSteps_add, hlast, Nat.add_zero]

theorem LfsrUnit.outputs_eq_testBits (n : Nat) :
    x.outputs n = (List.range n).map
      (lowBits (nextNumber x.width.toNat (tapPositions x)) (x.width.toNat + n) x.value.toNat >>>
        (x.width.toNat - x.otap.toNat)).testBit := by
  rw [outputs_eq_map]
  refine List.map_congr_left fun i hi => ?_
  have hin : i < n := List.mem_range.1 hi
  rw [Nat.testBit_shiftRight, out_afterSteps h16 h hvalid (n := x.width.toNat + n) (by omega)]

end

/-! ## A code as one number -/

/-- The reference register's last position over n chips and a register's width more (41_gold_generator.md R100). -/
def referenceSequence (n : Nat) : Nat := lowBits (nextNumber 10 [3, 10]) (10 + n) 1023

/-- The variable registers' last position over n chips and a register's width more (41_gold_generator.md R100). -/
def variableSequence (n : Nat) : Nat := lowBits (nextNumber 10 [2, 3, 6, 8, 9, 10]) (10 + n) 1023

/-- The first n chips of a pair of output taps as one number: chip i is bit i (41_gold_generator.md R103). -/
def codeNumber (n : Nat) (t : TapPair) : Nat :=
  variableSequence n >>> (10 - t.s1.toNat) ^^^ variableSequence n >>> (10 - t.s2.toNat) ^^^ referenceSequence n

theorem outputs_goldReference_eq_testBits (n : Nat) :
    LfsrUnit.goldReference.outputs n = (List.range n).map (referenceSequence n).testBit :=
  LfsrUnit.outputs_eq_testBits (wmax := 16) (by decide) (.goldReference (by decide)) rfl n

theorem outputs_goldVariable_eq_testBits {o : BitVec 4} (h1 : 1 ≤ o.toNat) (h10 : o.toNat ≤ 10) (n : Nat) :
    (LfsrUnit.goldVariable o).outputs n = (List.range n).map (variableSequence n >>> (10 - o.toNat)).testBit := by
  have hpositions : tapPositions (LfsrUnit.goldVariable o) = [2, 3, 6, 8, 9, 10] := by
    show tapPositions (LfsrUnit.goldVariable 0) = _
    decide
  have hvalue : (LfsrUnit.goldVariable o).value.toNat = 1023 := rfl
  rw [LfsrUnit.outputs_eq_testBits (wmax := 16) (by decide) (.goldVariable (by decide) h1 h10) rfl, hpositions, hvalue,
    toNat_otap_goldVariable]
  rfl

theorem combineBits_map (f g h : Nat → Bool) (l : List Nat) :
    combineBits (l.map f) (l.map g) (l.map h) = l.map fun i => xor (xor (f i) (g i)) (h i) := by
  simp only [combineBits, List.zipWith_map, List.zipWith_self]

theorem prnChips_eq_testBits {t : TapPair} (ht : tapPairInRange t = true) (n : Nat) :
    prnChips t n = (List.range n).map (codeNumber n t).testBit := by
  obtain ⟨⟨hlo1, hhi1⟩, hlo2, hhi2⟩ := (tapPairInRange_iff t).1 ht
  rw [prnChips, goldChips, outputs_goldReference_eq_testBits, outputs_goldVariable_eq_testBits hlo1 hhi1,
    outputs_goldVariable_eq_testBits hlo2 hhi2, combineBits_map]
  refine List.map_congr_left fun i _ => ?_
  rw [codeNumber, Nat.testBit_xor, Nat.testBit_xor]

theorem count_true_prnChips {t : TapPair} (ht : tapPairInRange t = true) (n : Nat) :
    (prnChips t n).count true = (List.range n).countP (codeNumber n t).testBit := by
  rw [prnChips_eq_testBits ht, List.count_eq_countP, List.countP_map]
  simp only [Function.comp_def, beq_true]

/-- The 1s of each reference code, counted on its number. -/
theorem codeNumber_ones :
    ∀ t ∈ referenceTapAssign.toList, (List.range 1023).countP (codeNumber 1023 t).testBit = 512 := by decide +kernel

/-- Settles O43: the code is `prnChips` of its entry, whose chips are the bits of one number (`codeNumber_ones`). -/
theorem referenceCodesAreBalanced : Obligations.ReferenceCodesAreBalanced := by
  unfold Obligations.ReferenceCodesAreBalanced
  intro id hlo hhi
  have hp : ParamsLegal referenceParams := by decide
  have hentry := ParamsLegal.entry hp (i := id - 1) (by omega)
  refine ⟨_, getCode_eq_prnChips hp ⟨hlo, hhi⟩, length_prnChips _ _, ?_⟩
  rw [count_true_prnChips hentry]
  exact codeNumber_ones _ (by simp [referenceParams])

end Sys2Proof.Machine
end

section
/-! PROOF. The whole machine: commands and the history, RESET during a command, and what every step keeps (10_state.md
sections 4 and 5; 60_exceptions.md; 70_reset_and_hazards.md). -/

namespace Sys2Proof.Machine

variable {s t : State}

/-! ## Commands do not depend on the history -/

/-- A state with another stream, other values read, another schedule and another draw counter. -/
def State.withHistory (s : State) (l : List StreamEntry) (r : List Word) (b : List BusEvent) (d : Nat) : State :=
  { s with stream := l, reads := r, bus := b, draws := d }

@[simp] theorem State.unit_withHistory (s : State) (u : UnitId) (l : List StreamEntry) (r : List Word)
    (b : List BusEvent) (d : Nat) : (s.withHistory l r b d).unit u = s.unit u := by cases u <;> rfl

/-- An operation on s appends the same entries to whatever stream stands there, passes the rest of the history on, and
otherwise gives what it gives on s (10_state.md section 4). -/
def IgnoresHistory (f : State → State) (s : State) : Prop :=
  ∃ new, ∀ l r b d, f (s.withHistory l r b d) = (f s).withHistory (l ++ new) r b d

theorem IgnoresHistory.of_no_entries {f : State → State}
    (h : ∀ l r b d, f (s.withHistory l r b d) = (f s).withHistory l r b d) : IgnoresHistory f s :=
  ⟨[], fun l r b d => by rw [h, List.append_nil]⟩

theorem setUnit_ignoresHistory (s : State) (u : UnitId) (f : LfsrUnit → LfsrUnit) :
    IgnoresHistory (fun s => s.setUnit u (f (s.unit u))) s :=
  .of_no_entries fun _ _ _ _ => by cases u <;> rfl

/-- The check of a command behind `require` reads VALID alone (40_lfsr_engine.md R88). -/
theorem IgnoresHistory.requireUnit {f : State → State} (h : IgnoresHistory f s) (u : UnitId) :
    IgnoresHistory (fun s => requireUnit u (f s) s) s := by
  have hunit (l : List StreamEntry) (r : List Word) (b : List BusEvent) (d : Nat) :
      ((s.withHistory l r b d).unit u).valid = (s.unit u).valid := by rw [State.unit_withHistory]
  cases hv : (s.unit u).valid with
  | true =>
    obtain ⟨new, hnew⟩ := h
    refine ⟨new, fun l r b d => ?_⟩
    beta_reduce
    rw [requireUnit_valid _ u hv, requireUnit_valid _ u ((hunit l r b d).trans hv), hnew]
  | false =>
    refine .of_no_entries fun l r b d => ?_
    rw [requireUnit_invalid _ u hv, requireUnit_invalid _ u ((hunit l r b d).trans hv)]
    rfl

theorem configUnit_ignoresHistory (u : UnitId) (taps : BitVec 16) (width otap : BitVec 5) (s : State) :
    IgnoresHistory (configUnit u taps width otap) s := by
  refine .of_no_entries fun l r b d => ?_
  by_cases hc : LegalConfig s.params width taps otap
  · rw [configUnit_legal s u hc, configUnit_legal (s.withHistory l r b d) u hc]
    cases u <;> rfl
  · rw [configUnit_illegal s u hc, configUnit_illegal (s.withHistory l r b d) u hc]
    rfl

theorem seedUnit_ignoresHistory (u : UnitId) (v : BitVec 16) (s : State) : IgnoresHistory (seedUnit u v) s :=
  (setUnit_ignoresHistory s u (·.seeded v)).requireUnit u

theorem stepRun_ignoresHistory (u : UnitId) (n : Nat) (s : State) : IgnoresHistory (stepRun u n) s := by
  refine ⟨entriesOf (.unit u) ((s.unit u).outputs n), fun l r b d => ?_⟩
  rw [stepRun_eq, stepRun_eq]
  cases u <;> rfl

theorem stepCommand_ignoresHistory (u : UnitId) (n : Nat) (s : State) : IgnoresHistory (stepCommand u n) s :=
  (stepRun_ignoresHistory u n s).requireUnit u

theorem goldRun_ignoresHistory (n : Nat) (s : State) : IgnoresHistory (goldRun n) s := by
  refine ⟨entriesOf .gold (goldChips n s.u0 s.u1 s.u2), fun l r b d => ?_⟩
  rw [goldRun_eq, goldRun_eq]
  rfl

theorem goldCommand_ignoresHistory (n : Nat) (s : State) : IgnoresHistory (goldCommand n) s :=
  (((goldRun_ignoresHistory n s).requireUnit .u2).requireUnit .u1).requireUnit .u0

theorem prnCommand_ignoresHistory (id : BitVec 8) (s : State) : IgnoresHistory (prnCommand id) s := by
  refine .of_no_entries fun l r b d => ?_
  by_cases hid : 1 ≤ id.toNat ∧ id.toNat ≤ 37
  · rw [prnCommand_valid s hid, prnCommand_valid (s.withHistory l r b d) hid]
    rfl
  · rw [prnCommand_invalid s hid, prnCommand_invalid (s.withHistory l r b d) hid]
    rfl

/-- Every command is an operation that ignores the history. -/
theorem exec_ignoresHistory (i : Instr) : ∃ f, (∀ s, exec i s = .next (f s)) ∧ ∀ s, IgnoresHistory f s := by
  obtain rfl | ⟨u, taps, width, otap, rfl⟩ | ⟨u, v, rfl⟩ | ⟨u, n, rfl⟩ | ⟨id, rfl⟩ | ⟨n, rfl⟩ | ⟨m, rfl⟩ :=
    Instr.shapes i
  · exact ⟨id, exec_nop, fun _ => .of_no_entries fun _ _ _ _ => rfl⟩
  · exact ⟨_, fun s => exec_configOn s u taps width otap, configUnit_ignoresHistory u taps width otap⟩
  · exact ⟨_, fun s => exec_seedOn s u v, seedUnit_ignoresHistory u v⟩
  · exact ⟨_, fun s => exec_stepOn s u n, stepCommand_ignoresHistory u n⟩
  · exact ⟨_, fun s => exec_prn s id, prnCommand_ignoresHistory id⟩
  · exact ⟨_, fun s => exec_gold s n, goldCommand_ignoresHistory n⟩
  · exact ⟨_, fun s => exec_clear s m, fun _ => .of_no_entries fun _ _ _ _ => rfl⟩

/-- Settles O47: what the command gives on s with s's own history shows what it does to the four fields. -/
theorem commandsIgnoreTheHistory : Obligations.CommandsIgnoreTheHistory := by
  unfold Obligations.CommandsIgnoreTheHistory
  intro i s
  obtain ⟨f, hexec, hignores⟩ := exec_ignoresHistory i
  obtain ⟨new, hnew⟩ := hignores s
  have hown : f s = (f s).withHistory (s.stream ++ new) s.reads s.bus s.draws :=
    hnew s.stream s.reads s.bus s.draws
  exact ⟨f s, new, hexec s, (congrArg State.stream hown :), (congrArg State.reads hown :),
    (congrArg State.bus hown :), (congrArg State.draws hown :),
    fun l r b d => (hexec _).trans (congrArg _ (hnew l r b d))⟩

/-! ## RESET during a command -/

theorem runPrefix_zero (i : Instr) (s : State) : runPrefix i 0 s = s := by cases i <;> rfl

theorem runPrefix_stepOn (u : UnitId) (n k : Nat) (s : State) : runPrefix (stepOn u n) k s = stepRun u k s := by
  cases u <;> rfl

theorem emissionCount_stepOn (u : UnitId) (n : Nat) (s : State) :
    emissionCount (stepOn u n) s = if (s.unit u).valid then n else 0 := by cases u <;> rfl

theorem emissionCount_gold (n : Nat) (s : State) :
    emissionCount (.gold n) s = if s.u0.valid && s.u1.valid && s.u2.valid then n else 0 := rfl

/-- Only STEP and GOLD on configured units emit (70_reset_and_hazards.md R153). -/
theorem emitting_cases {i : Instr} (h : emissionCount i s ≠ 0) :
    (∃ u n, i = stepOn u n ∧ (s.unit u).valid = true) ∨
      ∃ n, i = .gold n ∧ s.u0.valid = true ∧ s.u1.valid = true ∧ s.u2.valid = true := by
  obtain rfl | ⟨u, taps, width, otap, rfl⟩ | ⟨u, v, rfl⟩ | ⟨u, n, rfl⟩ | ⟨id, rfl⟩ | ⟨n, rfl⟩ | ⟨m, rfl⟩ :=
    Instr.shapes i
  · exact absurd rfl h
  · cases u <;> exact absurd rfl h
  · cases u <;> exact absurd rfl h
  · rw [emissionCount_stepOn, ne_eq, ite_eq_right_iff, Classical.not_imp] at h
    exact .inl ⟨u, n, rfl, h.1⟩
  · exact absurd rfl h
  · rw [emissionCount_gold, ne_eq, ite_eq_right_iff, Classical.not_imp, Bool.and_eq_true, Bool.and_eq_true] at h
    obtain ⟨⟨⟨h0, h1⟩, h2⟩, -⟩ := h
    exact .inr ⟨n, rfl, h0, h1, h2⟩
  · exact absurd rfl h

/-- The first k turns of a command's loop put the first k of its entries on the stream. -/
def EmitsInOrder (i : Instr) (s : State) : Prop :=
  ∃ t entries, exec i s = .next t ∧ t.stream = s.stream ++ entries ∧
    ∀ k ≤ emissionCount i s, k ≤ entries.length ∧ (runPrefix i k s).stream = s.stream ++ entries.take k

theorem stepOn_emitsInOrder {u : UnitId} (hv : (s.unit u).valid = true) (n : Nat) : EmitsInOrder (stepOn u n) s := by
  refine ⟨_, _, exec_stepOn_valid hv n, stepRun_stream s u n, fun k hk => ?_⟩
  have hkn : k ≤ n := by rwa [emissionCount_stepOn, if_pos hv] at hk
  rw [length_entriesOf, LfsrUnit.length_outputs, runPrefix_stepOn, stepRun_stream, entriesOf, entriesOf,
    ← List.map_take, LfsrUnit.outputs_take hkn]
  exact ⟨hkn, rfl⟩

theorem gold_emitsInOrder (h0 : s.u0.valid = true) (h1 : s.u1.valid = true) (h2 : s.u2.valid = true) (n : Nat) :
    EmitsInOrder (.gold n) s := by
  refine ⟨_, _, exec_gold_ready h0 h1 h2 n, goldRun_stream n s, fun k hk => ?_⟩
  have hkn : k ≤ n := by rwa [emissionCount_gold, h0, h1, h2] at hk
  have hprefix : (runPrefix (.gold n) k s).stream = _ := goldRun_stream k s
  rw [length_entriesOf, length_goldChips, hprefix, entriesOf, entriesOf, ← List.map_take, goldChips_take hkn]
  exact ⟨hkn, rfl⟩

theorem exec_emitsInOrder (i : Instr) (s : State) : EmitsInOrder i s := by
  by_cases h : emissionCount i s = 0
  · obtain ⟨t, new, ht, hstream, -⟩ := commandsIgnoreTheHistory i s
    refine ⟨t, new, ht, hstream, fun k hk => ?_⟩
    obtain rfl : k = 0 := by omega
    exact ⟨Nat.zero_le _, by rw [runPrefix_zero, List.take_zero, List.append_nil]⟩
  · obtain ⟨u, n, rfl, hv⟩ | ⟨n, rfl, h0, h1, h2⟩ := emitting_cases h
    · exact stepOn_emitsInOrder hv n
    · exact gold_emitsInOrder h0 h1 h2 n

/-- The loop of a command leaves the values read and the schedule (10_state.md section 4). -/
theorem runPrefix_reads_bus (i : Instr) (k : Nat) (s : State) :
    (runPrefix i k s).reads = s.reads ∧ (runPrefix i k s).bus = s.bus := by
  by_cases h : ∃ u n, i = stepOn u n
  · obtain ⟨u, n, rfl⟩ := h
    rw [runPrefix_stepOn]
    obtain ⟨-, -, -, -, hreads, hbus, -⟩ := keepsOthers_stepRun s u k
    exact ⟨hreads, hbus⟩
  · cases i with
    | gold n =>
      show (goldRun k s).reads = _ ∧ (goldRun k s).bus = _
      rw [goldRun_eq]
      exact ⟨rfl, rfl⟩
    | step0 n => exact absurd ⟨.u0, n, rfl⟩ h
    | step1 n => exact absurd ⟨.u1, n, rfl⟩ h
    | step2 n => exact absurd ⟨.u2, n, rfl⟩ h
    | nop | config0 | config1 | config2 | seed0 | seed1 | seed2 | prn | clear => exact ⟨rfl, rfl⟩

/-- The reset state behind a stream, with one draw more spent (70_reset_and_hazards.md R153; log 5). -/
def State.abandoned (s : State) (stream : List StreamEntry) : State :=
  { State.reset with params := s.params, stream := stream, reads := s.reads, bus := s.bus, draws := s.draws + 1 }

theorem abandon_ok_eq {w : Word} {i : Instr} (h : decode w = .ok i) (s : State) :
    ∃ t entries k, exec i s = .next t ∧ t.stream = s.stream ++ entries ∧ k ≤ entries.length ∧
      abandon w s = s.abandoned (s.stream ++ entries.take k) := by
  obtain ⟨t, entries, ht, hstream, hprefix⟩ := exec_emitsInOrder i s
  obtain ⟨hk, hrun⟩ := hprefix _ (drawnPrefix_le s (emissionCount i s))
  obtain ⟨hreads, hbus⟩ := runPrefix_reads_bus i (drawnPrefix (emissionCount i s) s) s
  refine ⟨t, entries, _, ht, hstream, hk, ?_⟩
  rw [abandon_ok s h, State.applyReset, runPrefix_params, hrun, hreads, hbus]
  rfl

theorem abandon_error_eq {w : Word} {e : Illegal} (h : decode w = .error e) (s : State) :
    abandon w s = s.abandoned s.stream := by
  rw [abandon_error s h]
  rfl

/-- Settles O49: the drawn number of turns puts the first of the command's entries on the stream (`abandon_ok_eq`). -/
theorem resetDuringACommandLeavesAPrefix : Obligations.ResetDuringACommandLeavesAPrefix := by
  unfold Obligations.ResetDuringACommandLeavesAPrefix
  intro s w waiting rest hb resetWith
  have hstep : step s = .next (abandon w { s with bus := rest }) := step_event s hb
  refine ⟨fun i hi => ?_, fun e he => ?_⟩
  · obtain ⟨t, entries, k, ht, hstream, hk, habandon⟩ := abandon_ok_eq hi { s with bus := rest }
    exact ⟨t, entries, k, ht, hstream, hk, hstep.trans (congrArg _ habandon)⟩
  · exact hstep.trans (congrArg _ (abandon_error_eq he _))

/-! ## Every step answers a next state, keeps the parameters and extends the history -/

/-- What serving an event keeps: the parameters, the stream so far, the values read so far with at most one more, and
the rest of the schedule. -/
def Extends (s t : State) : Prop :=
  t.params = s.params ∧ (∃ new, t.stream = s.stream ++ new) ∧ (∃ new, t.reads = s.reads ++ new ∧ new.length ≤ 1) ∧
    t.bus = s.bus

theorem Extends.of_same (hp : t.params = s.params) (hs : t.stream = s.stream) (hr : t.reads = s.reads)
    (hb : t.bus = s.bus) : Extends s t :=
  ⟨hp, ⟨[], by rw [hs, List.append_nil]⟩, ⟨[], by rw [hr, List.append_nil], Nat.zero_le 1⟩, hb⟩

theorem Extends.reply (hp : t.params = s.params) (hs : t.stream = s.stream) (hr : t.reads = s.reads)
    (hb : t.bus = s.bus) (v : Word) : Extends s (t.reply v) :=
  ⟨hp, ⟨[], by rw [State.reply_stream, hs, List.append_nil]⟩, ⟨[v], by rw [State.reply_reads, hr], le_rfl⟩, hb⟩

theorem prnCommand_params (id : BitVec 8) (s : State) : (prnCommand id s).params = s.params := by
  by_cases hid : 1 ≤ id.toNat ∧ id.toNat ≤ 37
  · rw [prnCommand_valid s hid]
    rfl
  · rw [prnCommand_invalid s hid]
    rfl

theorem goldCommand_params (n : Nat) (s : State) : (goldCommand n s).params = s.params := by
  by_cases h : s.u0.valid = true ∧ s.u1.valid = true ∧ s.u2.valid = true
  · obtain ⟨h0, h1, h2⟩ := h
    rw [goldCommand_ready h0 h1 h2, goldRun_eq]
  · rw [goldCommand_unready h, State.record_params]

theorem KeepsOthers.params {u : UnitId} (h : KeepsOthers u s t) : t.params = s.params := by
  obtain ⟨-, -, -, hp, -⟩ := h
  exact hp

/-- No command writes the parameters (10_state.md section 5). -/
theorem exec_keeps_params (i : Instr) (s : State) : ∃ t, exec i s = .next t ∧ t.params = s.params := by
  obtain rfl | ⟨u, taps, width, otap, rfl⟩ | ⟨u, v, rfl⟩ | ⟨u, n, rfl⟩ | ⟨id, rfl⟩ | ⟨n, rfl⟩ | ⟨m, rfl⟩ :=
    Instr.shapes i
  · exact ⟨s, exec_nop s, rfl⟩
  · exact ⟨_, exec_configOn s u taps width otap, (configUnit_frame s u taps width otap).1.params⟩
  · exact ⟨_, exec_seedOn s u v, (seedUnit_frame s u v).1.params⟩
  · exact ⟨_, exec_stepOn s u n, (stepCommand_frame s u n).1.params⟩
  · exact ⟨_, exec_prn s id, prnCommand_params id s⟩
  · exact ⟨_, exec_gold s n, goldCommand_params n s⟩
  · exact ⟨_, exec_clear s m, rfl⟩

theorem exec_extends (i : Instr) (s : State) : ∃ t, exec i s = .next t ∧ Extends s t := by
  obtain ⟨t, new, ht, hstream, hreads, hbus, -⟩ := commandsIgnoreTheHistory i s
  obtain ⟨t', ht', hparams⟩ := exec_keeps_params i s
  cases ht.symm.trans ht'
  exact ⟨t, ht, hparams, ⟨new, hstream⟩, ⟨[], by rw [hreads, List.append_nil], Nat.zero_le 1⟩, hbus⟩

theorem execute_extends (w : Word) (s : State) : ∃ t, execute w s = .next t ∧ Extends s t := by
  cases hw : decode w with
  | ok i =>
    rw [execute_ok s hw]
    exact exec_extends i s
  | error e => exact ⟨_, execute_error s hw, .of_same rfl rfl rfl rfl⟩

theorem serveWrite_extends (off : BitVec 6) (size : AccessSize) (v : Word) (s : State) :
    ∃ t, serveWrite off size v s = .next t ∧ Extends s t := by
  by_cases hcmd : size = .word ∧ off = 0
  · obtain ⟨rfl, rfl⟩ := hcmd
    rw [serveWrite_cmd]
    exact execute_extends v s
  · exact ⟨_, serveWrite_refused s hcmd v, .of_same rfl rfl rfl rfl⟩

theorem serveRead_extends (off : BitVec 6) (size : AccessSize) (s : State) : Extends s (serveRead off size s) := by
  cases hr : admittedRead off size with
  | some r =>
    rw [serveRead_admitted s hr]
    exact .reply rfl rfl rfl rfl _
  | none =>
    rw [serveRead_refused s hr]
    exact .reply (State.record_params s .bus) rfl rfl rfl 0

theorem abandon_extends (w : Word) (s : State) : Extends s (abandon w s) := by
  cases hw : decode w with
  | ok i =>
    obtain ⟨t, entries, k, -, -, -, habandon⟩ := abandon_ok_eq hw s
    rw [habandon]
    exact ⟨rfl, ⟨entries.take k, rfl⟩, ⟨[], (List.append_nil _).symm, Nat.zero_le 1⟩, rfl⟩
  | error e =>
    rw [abandon_error_eq hw]
    exact .of_same rfl rfl rfl rfl

theorem serveEvent_extends (e : BusEvent) (s : State) : ∃ t, serveEvent e s = .next t ∧ Extends s t := by
  cases e with
  | transaction tr =>
    cases tr with
    | write off size v => exact serveWrite_extends off size v s
    | read off size => exact ⟨_, rfl, serveRead_extends off size s⟩
  | reset => exact ⟨_, rfl, .of_same rfl rfl rfl rfl⟩
  | resetDuring w waiting => exact ⟨_, rfl, abandon_extends w s⟩

/-- A step answers a next state, which extends the one whose next event was taken off the schedule. -/
theorem step_extends (s : State) : ∃ t, step s = .next t ∧ Extends { s with bus := s.bus.tail } t := by
  cases hb : s.bus with
  | nil => exact ⟨s, step_idle s hb, .of_same rfl rfl rfl hb⟩
  | cons e rest =>
    rw [step_event s hb]
    exact serveEvent_extends e { s with bus := rest }

theorem extends_of_step (h : step s = .next t) : Extends { s with bus := s.bus.tail } t := by
  obtain ⟨t', ht', hext⟩ := step_extends s
  cases ht'.symm.trans h
  exact hext

/-- Settles O53: every event is served with a next state, and an idle core keeps its own (`step_extends`). -/
theorem stepNeverStops : Obligations.StepNeverStops := by
  unfold Obligations.StepNeverStops
  intro s
  obtain ⟨t, ht, -⟩ := step_extends s
  exact ⟨t, ht⟩

/-- Settles O54: no event writes the parameters, RESET included (`extends_of_step`). -/
theorem stepKeepsTheParameters : Obligations.StepKeepsTheParameters := by
  unfold Obligations.StepKeepsTheParameters
  intro s t h
  obtain ⟨hparams, -⟩ := extends_of_step h
  exact hparams

/-- Settles O55: each event appends to the two histories and leaves the events behind it (`extends_of_step`). -/
theorem stepOnlyExtendsTheHistory : Obligations.StepOnlyExtendsTheHistory := by
  unfold Obligations.StepOnlyExtendsTheHistory
  intro s t h
  obtain ⟨-, hhistory⟩ := extends_of_step h
  exact hhistory

/-! ## The reset state and the bus wait -/

/-- Settles O51: the reset state of legal parameters meets the invariant, and the reference parameters are legal. -/
theorem resetMeetsTheInvariant : Obligations.ResetMeetsTheInvariant := by
  unfold Obligations.ResetMeetsTheInvariant
  exact applyReset_inv (s := State.reset) (by decide)

theorem cycles_stepOn (u : UnitId) (n : Nat) : cycles (stepOn u n) = n := by cases u <;> rfl

theorem cycles_of_no_count {i : Instr} (hstep : ∀ u n, i ≠ stepOn u n) (hgold : ∀ n, i ≠ .gold n) : cycles i = 1 := by
  obtain rfl | ⟨u, taps, width, otap, rfl⟩ | ⟨u, v, rfl⟩ | ⟨u, n, rfl⟩ | ⟨id, rfl⟩ | ⟨n, rfl⟩ | ⟨m, rfl⟩ :=
    Instr.shapes i
  · rfl
  · cases u <;> rfl
  · cases u <;> rfl
  · exact absurd rfl (hstep u n)
  · rfl
  · exact absurd rfl (hgold n)
  · rfl

/-- Settles O56: STEP and GOLD take their count of cycles and every other command one. -/
theorem busWaitIsBounded : Obligations.BusWaitIsBounded := by
  unfold Obligations.BusWaitIsBounded
  intro u n i
  refine ⟨?_, le_rfl, fun hstep hgold => ?_⟩
  · rw [busWait, cycles_stepOn]
  · rw [busWait, cycles_of_no_count hstep hgold]

end Sys2Proof.Machine
end
